-- ==== Sys2Proof/Word.lean ====
section
/-! DEFINITION. The bit-vector types of LZC (spec/00_scope.md R7: `u8`, `u16`, `u32`, and the two fields of a
descriptor, spec/30_encoding.md section 5). Nothing in LZC is signed. -/

namespace Sys2Proof

/-- A `u8`: one byte of memory, one literal, one escape byte (R7). -/
abbrev Byte := BitVec 8

/-- A `u16`: a match descriptor or an extra halfword, one entry of DICT (R7, R21). -/
abbrev Half := BitVec 16

/-- A `u32`: a register value (R8), a header field (R48), a flag word zero-extended to 32 bits (R49). -/
abbrev Word := BitVec 32

/-- A descriptor's nibble `D[15:12]`, and a 4-bit field of the command word (R46, R53). -/
abbrev Nibble := BitVec 4

/-- A descriptor's offset field `D[11:0]`, the distance less one (spec/30_encoding.md section 5). -/
abbrev Offset := BitVec 12

end Sys2Proof
end

