-- ==== Sys2Proof/Config.lean ====
section
/-! DEFINITION. What an implementation of LZC fixes: the constants and the open parameters of spec/00_scope.md R6,
what a byte of memory that nothing has written reads as, and the free values (constants without a body, so that no
proof can see what they are). -/

namespace Sys2Proof

namespace Config

/-- `WINDOW` (R6): a match reaches at most this many bytes back. -/
def window : Nat := 4096

/-- `SEED_LEN` (R6): the number of bytes the match finder looks for. -/
def seedLen : Nat := 3

/-- `MIN_MATCH` (R6): the shortest match that is emitted. -/
def minMatch : Nat := 3

/-- `SIZE_MAX` (R6): the largest input size and the largest decoded size. -/
def sizeMax : Nat := 0x3FFFFFFF

/-- `HDR_LEN` (R6, R48): the size of a container's header. -/
def hdrLen : Nat := 16

/-- `GROW_QUANTUM` (R6): informative only; no rule depends on it (R63). -/
def growQuantum : Nat := 65536

/-- `2^ADDR_W` with ADDR_W = 32 (R6, R27): the number of bytes of system memory. -/
def addressSpace : Nat := 0x100000000

/-- What an address that memory does not list reads as. spec/95_test_vectors.md section 3: "Memory not listed holds
0x00". DESIGN CHOICE, unsafe: notes/assumptions/3.md. -/
def unlisted : Byte := 0

/-- FREE VALUE. The value a register read returns that is not an aligned 32-bit access (R34), and the draw behind a
counter read while BUSY = 1 (R142), indexed by the number of draws made before. notes/assumptions/8.md and 9.md. -/
opaque freeWord : Nat → Word

/-- FREE VALUE. A byte of the output region after a reset while BUSY = 1 (R136), indexed by the number of draws made
before. notes/assumptions/10.md. -/
opaque freeByte : Nat → Byte

end Config

/-- `MF_TIE` (R6, R71): which of several longest candidates the match finder returns. -/
inductive MfTie where
  | farthest
  | nearest
deriving DecidableEq, Repr

/-- `MIO0_MAXLEN` (R6, R50): the longest match of the MIO coding, 17 or 18. -/
inductive MioMaxLen where
  | m17
  | m18
deriving DecidableEq, Repr

/-- The number `MIO0_MAXLEN` stands for (R6). -/
def MioMaxLen.toNat : MioMaxLen → Nat
  | .m17 => 17
  | .m18 => 18

/-- The open parameters of R6. A model "takes each open parameter as an argument or uses its stated default"; the
machine holds them as one constant field of its state (notes/assumptions/1.md). -/
structure Params where
  /-- `FLAGS_CAP`, in flag words, 1..2^32-1. -/
  flagsCap : Word
  /-- `DICT_CAP`, in halfwords, 1..2^32-1. -/
  dictCap : Word
  /-- `BYTES_CAP`, in bytes, 1..2^32-1. -/
  bytesCap : Word
  /-- `MF_TIE`. -/
  mfTie : MfTie
  /-- `MIO0_MAXLEN`. -/
  mioMaxLen : MioMaxLen
  /-- `GROUPS_HDR_W1`, any u32. -/
  groupsHdrW1 : Word
  /-- `LZC_ID`, any u32. -/
  lzcId : Word
  /-- `MMIO_BASE` divided by 0x100, of which it is a multiple. -/
  mmioPage : BitVec 24
deriving DecidableEq, Repr

/-- The defaults of R6. MMIO_BASE is OPEN and has none: 0 here is a DESIGN CHOICE, unsafe (notes/assumptions/2.md). -/
def Params.defaults : Params where
  flagsCap := 0xFFFFFFFF
  dictCap := 0xFFFFFFFF
  bytesCap := 0xFFFFFFFF
  mfTie := .farthest
  mioMaxLen := .m18
  groupsHdrW1 := 0x30300000
  lzcId := 0x4C5A4337
  mmioPage := 0

end Sys2Proof
end

