-- ==== Sys2Proof/Syntax.lean ====
section
/-! DEFINITION. The syntax of LZC: the five variants with their layouts and codings (spec/30_encoding.md R45), and its
instructions, one constructor for each row of spec/opcode_table.json. The first eleven are command words the host
writes to CMD (R46); the other seven are the tokens the decoder executes (R49 to R53). -/

namespace Sys2Proof

/-- FormatVariant (R2, R45): the five container formats. -/
inductive Variant where
  | mio0
  | smsr00
  | yay0
  | yaz0
  | rvl0
deriving DecidableEq, Repr

/-- The physical arrangement of the three streams (R45, R54, R55, R56). -/
inductive Layout where
  | tables
  | groups
  | stream
deriving DecidableEq, Repr

/-- The length-encoding rule family of a variant (R45, R50, R51, R52). -/
inductive Coding where
  | mio
  | yay
  | rvl
deriving DecidableEq, Repr

/-- The instructions of LZC, one constructor for each row of spec/opcode_table.json, in the table's order. -/
inductive Instr where
  /-- `CLEAR`: OP = 0; the VARIANT field is carried and ignored (R46, R110). -/
  | clear (variant : Nibble)
  /-- `ENCODE MIO0` (R112). -/
  | encodeMio0
  /-- `ENCODE SMSR00` (R112). -/
  | encodeSmsr00
  /-- `ENCODE Yay0` (R112). -/
  | encodeYay0
  /-- `ENCODE Yaz0` (R112). -/
  | encodeYaz0
  /-- `ENCODE Rvl0` (R112). -/
  | encodeRvl0
  /-- `DECODE MIO0` (R113). -/
  | decodeMio0
  /-- `DECODE SMSR00` (R113). -/
  | decodeSmsr00
  /-- `DECODE Yay0` (R113). -/
  | decodeYay0
  /-- `DECODE Yaz0` (R113). -/
  | decodeYaz0
  /-- `DECODE Rvl0` (R113). -/
  | decodeRvl0
  /-- A literal token with its byte (R99). -/
  | lit (b : Byte)
  /-- A match of the MIO coding: every nibble means length nibble + 3 (R50). -/
  | matchMio (nib : Nibble) (off : Offset)
  /-- The short match of the YAY coding: nibble 1..15 means length nibble + 2 (R51). -/
  | matchYayS (nib : Nibble) (off : Offset)
  /-- The long match of the YAY coding: nibble 0, and an escape byte E that means length E + 18 (R51). -/
  | matchYayL (off : Offset) (escape : Byte)
  /-- The short match of the RVL coding: nibble 2..15 means length nibble + 1 (R52). -/
  | matchRvlS (nib : Nibble) (off : Offset)
  /-- The mid match of the RVL coding: nibble 0, and an escape byte E that means length E + 17 (R52). -/
  | matchRvlM (off : Offset) (escape : Byte)
  /-- The long match of the RVL coding: nibble 1, and an extra halfword X that means length X + 273 (R52). -/
  | matchRvlL (off : Offset) (extra : Half)
deriving DecidableEq, Repr

/-- The ENCODE command of a variant (R46). -/
def Instr.encodeOf : Variant → Instr
  | .mio0 => .encodeMio0
  | .smsr00 => .encodeSmsr00
  | .yay0 => .encodeYay0
  | .yaz0 => .encodeYaz0
  | .rvl0 => .encodeRvl0

/-- The DECODE command of a variant (R46). -/
def Instr.decodeOf : Variant → Instr
  | .mio0 => .decodeMio0
  | .smsr00 => .decodeSmsr00
  | .yay0 => .decodeYay0
  | .yaz0 => .decodeYaz0
  | .rvl0 => .decodeRvl0

/-- The coding whose descriptors a match token belongs to; none for a command and for a literal, which every coding
has (R50, R51, R52). -/
def Instr.coding? : Instr → Option Coding
  | .clear _ | .encodeMio0 | .encodeSmsr00 | .encodeYay0 | .encodeYaz0 | .encodeRvl0 => none
  | .decodeMio0 | .decodeSmsr00 | .decodeYay0 | .decodeYaz0 | .decodeRvl0 | .lit _ => none
  | .matchMio _ _ => some .mio
  | .matchYayS _ _ | .matchYayL _ _ => some .yay
  | .matchRvlS _ _ | .matchRvlM _ _ | .matchRvlL _ _ => some .rvl

end Sys2Proof
end

