-- ==== Sys2Proof/WellFormed.lean ====
section
/-! DEFINITION. Which instructions and parameters are well formed. A short match of the YAY coding has a nibble in
1..15 (spec/30_encoding.md R51) and one of the RVL coding a nibble in 2..15 (R52); with another nibble the descriptor
belongs to another form. The three buffer capacities are at least 1 (spec/00_scope.md R6). -/

namespace Sys2Proof

/-- Every field of the instruction is one its form admits (R51, R52); the other forms admit every field value (R53). -/
def Instr.wf : Instr → Bool
  | .clear _ | .encodeMio0 | .encodeSmsr00 | .encodeYay0 | .encodeYaz0 | .encodeRvl0 => true
  | .decodeMio0 | .decodeSmsr00 | .decodeYay0 | .decodeYaz0 | .decodeRvl0 | .lit _ => true
  | .matchMio _ _ => true
  | .matchYayS nib _ => decide (1 ≤ nib.toNat)
  | .matchYayL _ _ => true
  | .matchRvlS nib _ => decide (2 ≤ nib.toNat)
  | .matchRvlM _ _ => true
  | .matchRvlL _ _ => true

/-- The parameters lie in the ranges of R6: each capacity is in 1..2^32-1 (the other ranges are in the types). -/
def Params.wf (p : Params) : Bool :=
  decide (1 ≤ p.flagsCap.toNat) && decide (1 ≤ p.dictCap.toNat) && decide (1 ≤ p.bytesCap.toNat)

end Sys2Proof
end

