-- ==== Sys2Proof/Decode.lean ====
section
/-! DEFINITION. Encodings (spec/30_encoding.md): the command word (R46, R47), the tokens (R49 to R53) and their inline
form in the Stream layout (R56, R57). First the decoders, total on any word and on any bytes, rejecting by name; then
the encoder. The byte-order helpers BE16, BE32 and the big-endian value of a byte sequence stand first (R7, R30). -/

namespace Sys2Proof

/-- `BE16(x)` (R7): the two bytes of a u16, most significant first. -/
def be16 (x : Half) : List Byte := [x.extractLsb' 8 8, x.extractLsb' 0 8]

/-- `BE32(x)` (R7): the four bytes of a u32, most significant first. -/
def be32 (x : Word) : List Byte :=
  [x.extractLsb' 24 8, x.extractLsb' 16 8, x.extractLsb' 8 8, x.extractLsb' 0 8]

/-- The big-endian value of a byte sequence, after the value `acc` of the bytes before it. -/
def bigEndianFrom (acc : Nat) : List Byte → Nat
  | [] => acc
  | b :: rest => bigEndianFrom (acc * 256 + b.toNat) rest

/-- `RBE16` and `RBE32` (R7): the big-endian value of a byte sequence. -/
def bigEndian (bytes : List Byte) : Nat := bigEndianFrom 0 bytes

/-- `CMD.OP`, bits [3:0] of the command word (R46). -/
def cmdOp (w : Word) : Nibble := w.extractLsb' 0 4

/-- `CMD.VARIANT`, bits [7:4] of the command word (R46). -/
def cmdVariant (w : Word) : Nibble := w.extractLsb' 4 4

/-- The reserved bits [31:8] of the command word (R46). -/
def cmdReserved (w : Word) : BitVec 24 := w.extractLsb' 8 24

/-- The variant of a registry code; 5..15 are reserved (R45). -/
def variantOfCode (code : Nibble) : Option Variant :=
  match code.toNat with
  | 0 => some .mio0
  | 1 => some .smsr00
  | 2 => some .yay0
  | 3 => some .yaz0
  | 4 => some .rvl0
  | _ => none

/-- The registry code of a variant (R45). -/
def codeOfVariant : Variant → Nibble
  | .mio0 => 0
  | .smsr00 => 1
  | .yay0 => 2
  | .yaz0 => 3
  | .rvl0 => 4

/-- Why a word or a byte sequence is no instruction. -/
inductive DecodeReject where
  /-- `CMD.OP` is in 3..15 (R47): BadCommand 1 where the host writes it. -/
  | reservedOp
  /-- A bit of [31:8] is not 0 (R47): BadCommand 3 where the host writes it. -/
  | reservedBits
  /-- OP is ENCODE or DECODE and VARIANT is in 5..15 (R47): BadCommand 2 where the host writes it. -/
  | reservedVariant
  /-- The bytes end inside a token (R57). -/
  | truncatedToken
  /-- The stream elements are not those of exactly one token (R49 to R52). -/
  | notOneToken
deriving DecidableEq, Repr

/-- The instruction of a command word (R46), or the first reason of R47 in the order of R111. -/
def decodeCommand (w : Word) : Except DecodeReject Instr :=
  if cmdOp w = 0 ∧ cmdReserved w = 0 then .ok (.clear (cmdVariant w))
  else if 3 ≤ (cmdOp w).toNat then .error .reservedOp
  else if cmdReserved w ≠ 0 then .error .reservedBits
  else
    match variantOfCode (cmdVariant w) with
    | none => .error .reservedVariant
    | some v => if cmdOp w = 1 then .ok (Instr.encodeOf v) else .ok (Instr.decodeOf v)

/-- A descriptor's nibble, `D[15:12]` (spec/30_encoding.md section 5). -/
def descNibble (d : Half) : Nibble := d.extractLsb' 12 4

/-- A descriptor's offset field, `D[11:0]` (spec/30_encoding.md section 5). -/
def descOffset (d : Half) : Offset := d.extractLsb' 0 12

/-- The descriptor with a given nibble and offset field. -/
def descriptor (nib : Nibble) (off : Offset) : Half := nib ++ off

/-- What follows a descriptor: nothing, an escape byte, or an extra halfword (R50, R51, R52). -/
inductive Extra where
  | none
  | escape
  | half
deriving DecidableEq, Repr

/-- What a descriptor's nibble calls for, by coding (R53's table). -/
def extraOf (coding : Coding) (nib : Nibble) : Extra :=
  match coding with
  | .mio => .none
  | .yay => if nib = 0 then .escape else .none
  | .rvl => if nib = 0 then .escape else if nib = 1 then .half else .none

/-- The match token of a descriptor and the value of its escape byte or extra halfword (R50, R51, R52). -/
def matchOf (coding : Coding) (d : Half) (extra : Nat) : Instr :=
  match coding with
  | .mio => .matchMio (descNibble d) (descOffset d)
  | .yay =>
    if descNibble d = 0 then .matchYayL (descOffset d) (BitVec.ofNat 8 extra)
    else .matchYayS (descNibble d) (descOffset d)
  | .rvl =>
    if descNibble d = 0 then .matchRvlM (descOffset d) (BitVec.ofNat 8 extra)
    else if descNibble d = 1 then .matchRvlL (descOffset d) (BitVec.ofNat 16 extra)
    else .matchRvlS (descNibble d) (descOffset d)

/-- A token as the elements it puts into the three streams: its flag bit (R49), its dictionary entries and its bytes
(R50, R51, R52). -/
structure TokenCode where
  flag : Bool
  dict : List Half
  bytes : List Byte
deriving DecidableEq, Repr

/-- The token of exactly these stream elements, under a coding. -/
def decodeToken (coding : Coding) (t : TokenCode) : Except DecodeReject Instr :=
  match t.flag, t.dict, t.bytes with
  | true, [], [b] => .ok (.lit b)
  | false, [d], [] =>
    if extraOf coding (descNibble d) = .none then .ok (matchOf coding d 0) else .error .notOneToken
  | false, [d], [e] =>
    if extraOf coding (descNibble d) = .escape then .ok (matchOf coding d e.toNat) else .error .notOneToken
  | false, [d, x], [] =>
    if extraOf coding (descNibble d) = .half then .ok (matchOf coding d x.toNat) else .error .notOneToken
  | _, _, _ => .error .notOneToken

/-- One token of the Stream layout from the bytes that follow its flag bit, and the bytes after it (R56, R57): a literal
is its byte; a match is BE16(D), then its escape byte or BE16(X). Total on any bytes. -/
def decodeInline (coding : Coding) (flag : Bool) (bytes : List Byte) : Except DecodeReject (Instr × List Byte) :=
  match flag, bytes with
  | true, b :: rest => .ok (.lit b, rest)
  | false, h :: l :: rest =>
    match extraOf coding (descNibble (h ++ l)), rest with
    | .none, rest => .ok (matchOf coding (h ++ l) 0, rest)
    | .escape, e :: rest => .ok (matchOf coding (h ++ l) e.toNat, rest)
    | .half, x :: y :: rest => .ok (matchOf coding (h ++ l) (bigEndian [x, y]), rest)
    | _, _ => .error .truncatedToken
  | _, _ => .error .truncatedToken

/-- An encoded object of LZC (spec/30_encoding.md): a command word, or a token's stream elements. -/
inductive Code where
  | command (w : Word)
  | token (t : TokenCode)
deriving DecidableEq, Repr

/-- The decoder on any encoded object, with the coding the variant of the running DECODE fixes (R45). -/
def decode (coding : Coding) : Code → Except DecodeReject Instr
  | .command w => decodeCommand w
  | .token t => decodeToken coding t

/-! ### The encoder -/

/-- The command word with the given OP and VARIANT and the reserved bits 0 (R46). -/
def commandWord (op code : Nibble) : Word := (0 : BitVec 24) ++ code ++ op

/-- The stream elements of a literal (R79). -/
def literalCode (b : Byte) : TokenCode := ⟨true, [], [b]⟩

/-- The stream elements of a match with its dictionary entries and its bytes (R80). -/
def matchCode (dict : List Half) (bytes : List Byte) : TokenCode := ⟨false, dict, bytes⟩

/-- The encoding of an instruction (R46, R50, R51, R52). -/
def encode : Instr → Code
  | .clear variant => .command (commandWord 0 variant)
  | .encodeMio0 => .command (commandWord 1 (codeOfVariant .mio0))
  | .encodeSmsr00 => .command (commandWord 1 (codeOfVariant .smsr00))
  | .encodeYay0 => .command (commandWord 1 (codeOfVariant .yay0))
  | .encodeYaz0 => .command (commandWord 1 (codeOfVariant .yaz0))
  | .encodeRvl0 => .command (commandWord 1 (codeOfVariant .rvl0))
  | .decodeMio0 => .command (commandWord 2 (codeOfVariant .mio0))
  | .decodeSmsr00 => .command (commandWord 2 (codeOfVariant .smsr00))
  | .decodeYay0 => .command (commandWord 2 (codeOfVariant .yay0))
  | .decodeYaz0 => .command (commandWord 2 (codeOfVariant .yaz0))
  | .decodeRvl0 => .command (commandWord 2 (codeOfVariant .rvl0))
  | .lit b => .token (literalCode b)
  | .matchMio nib off => .token (matchCode [descriptor nib off] [])
  | .matchYayS nib off => .token (matchCode [descriptor nib off] [])
  | .matchYayL off e => .token (matchCode [descriptor 0 off] [e])
  | .matchRvlS nib off => .token (matchCode [descriptor nib off] [])
  | .matchRvlM off e => .token (matchCode [descriptor 0 off] [e])
  | .matchRvlL off x => .token (matchCode [descriptor 1 off, x] [])

/-- The stream elements of a token; a command has none. -/
def tokenCode (i : Instr) : TokenCode :=
  match encode i with
  | .token t => t
  | .command _ => ⟨false, [], []⟩

/-- The bytes of a token in the Stream layout after its flag bit (R56): a literal's byte; a match's BE16(D), then its
escape byte if it has one, then BE16(X) if it has an extra halfword. -/
def inlineBytes (t : TokenCode) : List Byte :=
  match t.dict with
  | [] => t.bytes
  | d :: extra => be16 d ++ t.bytes ++ extra.flatMap be16

/-- The match token of length `n` and distance `d` under a coding (R50, R51, R52; the case split is R80's). -/
def matchInstr (coding : Coding) (n d : Nat) : Instr :=
  let off : Offset := BitVec.ofNat 12 (d - 1)
  match coding with
  | .mio => .matchMio (BitVec.ofNat 4 (n - 3)) off
  | .yay =>
    if n < 18 then .matchYayS (BitVec.ofNat 4 (n - 2)) off else .matchYayL off (BitVec.ofNat 8 (n - 18))
  | .rvl =>
    if n < 17 then .matchRvlS (BitVec.ofNat 4 (n - 1)) off
    else if n < 273 then .matchRvlM off (BitVec.ofNat 8 (n - 17))
    else .matchRvlL off (BitVec.ofNat 16 (n - 273))

/-! ### The host's reading of a table word -/

/-- The bytes of a table word of a token: the descriptor's bits [15:0] in the order memory holds them, then the byte of
the bits above (an escape byte, or the first byte of an extra halfword), then zeros. -/
def tableTokenBytes (w : Nat) : List Byte := be16 (BitVec.ofNat 16 w) ++ [BitVec.ofNat 8 (w / 65536), 0]

/-- The coding under which a table word of `nbits` bits is read. A descriptor does not name its coding; the variant of
the running DECODE does (R45, R53). A word that gives the descriptor's bits is read under the RVL coding, one that
gives the flag bit alone under the MIO coding. DESIGN CHOICE: notes/assumptions/17.md. -/
def tableCoding (nbits : Nat) : Coding := if nbits ≤ 8 then .mio else .rvl

/-- The flag bit of a token's table word: given where the word has at most 8 bits (bit 0), and 0 (a match) where it gives
a descriptor; the LIT row gives no bit at all (notes/assumptions/17.md). -/
def tableFlag (nbits w : Nat) : Bool := nbits = 0 || (nbits ≤ 8 && w % 2 = 1)

/-- The stream bytes of a token's table word after its flag bit. -/
def tableBytes (nbits w : Nat) : List Byte := if nbits ≤ 8 then [0, 0, 0, 0] else tableTokenBytes w

/-- The instruction the decoder reads from an instruction whose bits are `w`, numbered as spec/opcode_table.json numbers
them: a 32-bit word is a command word, a shorter one a token's descriptor or flag bit. -/
def decodeTableWord (nbits w : Nat) : Option Instr :=
  if nbits = 32 then
    match decodeCommand (BitVec.ofNat 32 w) with
    | .ok i => some i
    | .error _ => none
  else if nbits ≤ 24 then
    match decodeInline (tableCoding nbits) (tableFlag nbits w) (tableBytes nbits w) with
    | .ok (i, _) => some i
    | .error _ => none
  else none

end Sys2Proof
end

