-- ==== Sys2Proof/Machine/State.lean ====
section
/-! DEFINITION. The state of LZC as plain data (spec/10_state.md, spec/70_reset_and_hazards.md R135), the causes of its
errors (spec/60_exceptions.md R120, R121), the host's operations (spec/45_commands.md R116), and the reasons a step of
the model stops. -/

namespace Sys2Proof.Machine

/-- The cause of an error: one constructor for each row of R121's table, so that no other pair of a code and a subcause
can arise. Their codes and subcauses are in Machine/Ops.lean. -/
inductive ErrorCause where
  /-- AllocationFailure 1: FLAGS is full (R60). -/
  | flagsFull
  /-- AllocationFailure 2: DICT is full (R60). -/
  | dictFull
  /-- AllocationFailure 3: BYTES is full (R60). -/
  | bytesFull
  /-- AllocationFailure 4: the assembled size passes DST_CAP (R86). -/
  | containerTooBig
  /-- AllocationFailure 5: the header's decoded size passes DST_CAP (R93). -/
  | decodedTooBig
  /-- BadMagic 1: the container is of another variant (R93). -/
  | badMagic
  /-- MalformedStream 1: the container has fewer than 16 bytes (R93). -/
  | shortContainer
  /-- MalformedStream 2: an aux offset is out of order or outside the container (R93). -/
  | badAuxOffset
  /-- MalformedStream 3: a flag-word read passes the end of its stream (R97). -/
  | flagOverrun
  /-- MalformedStream 4: a descriptor read passes the end of its stream (R100). -/
  | descriptorOverrun
  /-- MalformedStream 5: an escape-byte or extra-halfword read passes the end of its stream (R101). -/
  | extraOverrun
  /-- MalformedStream 6: a literal-byte read passes the end of its stream (R99). -/
  | literalOverrun
  /-- MalformedStream 7: a back-reference before the start of output (R102). -/
  | beforeStart
  /-- MalformedStream 8: a match past the decoded size (R102). -/
  | pastDecodedSize
  /-- SizeOutOfRange 1: SRC_LEN is 0 or passes SIZE_MAX (R111). -/
  | inputSize
  /-- SizeOutOfRange 2: the header's decoded size is 0 or passes SIZE_MAX (R93). -/
  | decodedSize
  /-- BadCommand 1: a reserved OP (R111). -/
  | reservedOp
  /-- BadCommand 2: a reserved VARIANT (R111). -/
  | reservedVariant
  /-- BadCommand 3: a reserved bit is set (R111). -/
  | reservedBits
  /-- BadCommand 4: the input region wraps (R111). -/
  | inputWraps
  /-- BadCommand 5: the output region wraps (R111). -/
  | outputWraps
  /-- BadCommand 6: the regions share a byte (R111). -/
  | regionsOverlap
deriving DecidableEq, Repr

/-- The engine's phase (R19). -/
inductive Phase where
  | idle
  | runEncode
  | runDecode
deriving DecidableEq, Repr

/-- The width of a host access to the register window (R34). -/
inductive AccessWidth where
  | byte
  | half
  | word
deriving DecidableEq, Repr

/-- One operation of the host (R116, R58), or of the platform (reset). -/
inductive HostOp where
  /-- A register write at an address of the register window (`WR`, R58). -/
  | write (addr : Word) (width : AccessWidth) (value : Word)
  /-- A register read at an address of the register window (`RD`, R58). -/
  | read (addr : Word) (width : AccessWidth)
  /-- A write of one byte of system memory (R27). -/
  | memWrite (addr : Word) (value : Byte)
  /-- A read of one byte of system memory (R27). -/
  | memRead (addr : Word)
  /-- `POLL` (R58): read STATUS until BUSY = 0. -/
  | poll
  /-- The host leaves this turn to the engine. -/
  | pass
  /-- The platform's reset (R136, R137). -/
  | reset
deriving DecidableEq, Repr

/-- The token encoder's state (R22, R75). -/
structure Encoder where
  /-- The source cursor `c`. -/
  c : Nat
  /-- The flag accumulator `facc`, an FW-bit word zero-extended to 32 bits. -/
  facc : Word
  /-- The flag-bit count `fbits`. -/
  fbits : Nat
  /-- The token count `T`. -/
  tokens : Nat
deriving DecidableEq, Repr

/-- The decoder's state (R24, R94). A cursor that the layout does not use is 0, and so is its limit. -/
structure Decoder where
  /-- The decoded size `N`. -/
  n : Nat
  /-- The output cursor `o`. -/
  o : Nat
  /-- The input cursor `fp`. -/
  fp : Nat
  /-- The end of `fp`'s range. -/
  fpLim : Nat
  /-- The input cursor `dp`. -/
  dp : Nat
  /-- The end of `dp`'s range. -/
  dpLim : Nat
  /-- The input cursor `bp`. -/
  bp : Nat
  /-- The end of `bp`'s range. -/
  bpLim : Nat
  /-- The current flag word, zero-extended to 32 bits. -/
  word : Word
  /-- The number of bits of `word` not yet consumed. -/
  left : Nat
deriving DecidableEq, Repr

/-- The state of the machine. CMD stores nothing (a read returns 0, R9), and ID is `params.lzcId` (R17). -/
structure State where
  /-- STATUS (R10). -/
  status : Word
  /-- SRC_ADDR (R11). -/
  srcAddr : Word
  /-- SRC_LEN (R11). -/
  srcLen : Word
  /-- DST_ADDR (R12). -/
  dstAddr : Word
  /-- DST_CAP (R12). -/
  dstCap : Word
  /-- OUT_LEN (R14). -/
  outLen : Word
  /-- ERR_INFO (R15). -/
  errInfo : Word
  /-- LIT_COUNT (R16). -/
  litCount : Word
  /-- MATCH_COUNT (R16). -/
  matchCount : Word
  /-- The engine's phase (R19). -/
  phase : Phase
  /-- The command's variant `v` (R20). -/
  variant : Variant
  /-- The latch of SRC_ADDR (R13, R20). -/
  latSrcAddr : Word
  /-- The latch of SRC_LEN (R13, R20). -/
  latSrcLen : Word
  /-- The latch of DST_ADDR (R13, R20). -/
  latDstAddr : Word
  /-- The latch of DST_CAP (R13, R20). -/
  latDstCap : Word
  /-- The FLAGS stream buffer, first element first (R21). -/
  flags : List Word
  /-- The DICT stream buffer, first element first (R21). -/
  dict : List Half
  /-- The BYTES stream buffer, first element first (R21). -/
  bytes : List Byte
  /-- The token encoder (R22). -/
  enc : Encoder
  /-- The match finder's SEED (R23). -/
  seed : List Byte
  /-- The match finder's SKIP, 256 entries (R23, R73). -/
  skip : List Nat
  /-- The decoder (R24). -/
  dec : Decoder
  /-- System memory (R27): (address, byte) pairs in the canonical form of Machine/Ops.lean's `Memory.wf`. -/
  mem : List Host.Cell
  /-- The parameters of R6; no step changes them (notes/assumptions/1.md). -/
  params : Params
  /-- The MODEL's own field: the host's pending operations, oldest first (notes/assumptions/5.md). -/
  host : List HostOp
  /-- The MODEL's own field: what the host's last read returned (notes/assumptions/18.md). -/
  readData : Word
  /-- The MODEL's own field: how many free values have been drawn (notes/assumptions/11.md). -/
  fresh : Nat
  /-- The MODEL's own field: the largest value a read of LIT_COUNT returned in this command (R142). -/
  litSeen : Word
  /-- The MODEL's own field: the largest value a read of MATCH_COUNT returned in this command (R142). -/
  matchSeen : Word
deriving DecidableEq, Repr

/-- The encoder's values at reset: unspecified (R25), chosen 0 (DESIGN CHOICE, notes/assumptions/6.md). -/
def Encoder.reset : Encoder := ⟨0, 0, 0, 0⟩

/-- The decoder's values at reset: unspecified (R25), chosen 0 (DESIGN CHOICE, notes/assumptions/6.md). -/
def Decoder.reset : Decoder := ⟨0, 0, 0, 0, 0, 0, 0, 0, 0, 0⟩

/-- The machine right after reset (R135), with nothing in memory and nothing for the host to do. -/
def State.reset : State where
  status := 0
  srcAddr := 0
  srcLen := 0
  dstAddr := 0
  dstCap := 0
  outLen := 0
  errInfo := 0
  litCount := 0
  matchCount := 0
  phase := .idle
  variant := .mio0
  latSrcAddr := 0
  latSrcLen := 0
  latDstAddr := 0
  latDstCap := 0
  flags := []
  dict := []
  bytes := []
  enc := Encoder.reset
  seed := List.replicate 3 0
  skip := List.replicate 256 3
  dec := Decoder.reset
  mem := []
  params := Params.defaults
  host := []
  readData := 0
  fresh := 0
  litSeen := 0
  matchSeen := 0

/-- Why the machine stops with a fault. -/
inductive Fault where
  /-- The host's register access is at an address outside the register window, where no register exists (R27). Raised by
  the host's register reads and writes. Safe: the model stops (notes/assumptions/13.md). -/
  | noRegister (addr : Word)
deriving DecidableEq, Repr

/-- Why the model gives a step no meaning. -/
inductive Refusal where
  /-- An instruction that has no meaning yet, rejected by name in Machine/Dispatch.lean. Safe: the model stops. -/
  | notModelled (mnemonic : String)
  /-- The host writes the input region, or accesses the output region, while BUSY = 1: it has no such move (R139, R116).
  Raised by the host's memory accesses. Safe: the model stops (notes/assumptions/12.md). -/
  | hostRace (addr : Word)
  /-- An engine access outside the two regions (R28; spec/93_implementation_defined.md V13: no rule makes one). Raised by
  the engine's step and by the tokens, in states no run reaches. Safe: the model stops (notes/assumptions/15.md). -/
  | engineOutsideRegions
  /-- A token while no DECODE runs (R96). Raised by the tokens, never through a step. Safe: the model stops
  (notes/assumptions/14.md). -/
  | tokenOutsideDecode
  /-- A token after the output is full (R96: the loop runs while o < N). Raised by the tokens, never through a step. Safe:
  the model stops (notes/assumptions/14.md). -/
  | tokenPastEnd
  /-- A match token of another coding than the running variant's (R45, R101). Raised by the match tokens, never through a
  step. Safe: the model stops (notes/assumptions/14.md). -/
  | tokenOfOtherCoding
  /-- A match token whose nibble its form does not admit (R51, R52). Raised by the short matches of the YAY and RVL
  codings, never through a step. Safe: the model stops (notes/assumptions/14.md). -/
  | illFormedToken
deriving DecidableEq, Repr

end Sys2Proof.Machine
end

