-- ==== Sys2Proof/Machine/Registry.lean ====
section
/-! DEFINITION. The format registry (spec/30_encoding.md R45): the constants of each variant, and those of the running
command's variant (R20). -/

namespace Sys2Proof.Machine

/-- The magic FourCC of a variant as a u32 (R45). -/
def magicOf : Variant → Word
  | .mio0 => 0x4D494F30
  | .smsr00 => 0x534D5352
  | .yay0 => 0x59617930
  | .yaz0 => 0x59617A30
  | .rvl0 => 0x52766C30

/-- The layout of a variant (R45). -/
def layoutOf : Variant → Layout
  | .mio0 => .tables
  | .smsr00 => .groups
  | .yay0 => .tables
  | .yaz0 => .stream
  | .rvl0 => .stream

/-- The coding of a variant (R45). -/
def codingOf : Variant → Coding
  | .mio0 => .mio
  | .smsr00 => .mio
  | .yay0 => .yay
  | .yaz0 => .yay
  | .rvl0 => .rvl

/-- The flag-word width of a layout in bytes (R45, R97). -/
def flagBytesOf : Layout → Nat
  | .tables => 4
  | .groups => 2
  | .stream => 1

/-- FW, the flag-word width of a variant in bits (R45). -/
def flagWidthOf (v : Variant) : Nat := 8 * flagBytesOf (layoutOf v)

/-- MAXLEN(v), the longest match a variant emits (R45). -/
def maxLenOf (p : Params) (v : Variant) : Nat :=
  match codingOf v with
  | .mio => p.mioMaxLen.toNat
  | .yay => 273
  | .rvl => 65808

/-- The layout of the running command's variant (R20). -/
def State.layout (s : State) : Layout := layoutOf s.variant

/-- The coding of the running command's variant (R20). -/
def State.coding (s : State) : Coding := codingOf s.variant

/-- FW of the running command's variant (R20). -/
def State.fw (s : State) : Nat := flagWidthOf s.variant

/-- MAXLEN of the running command's variant (R20). -/
def State.maxLen (s : State) : Nat := maxLenOf s.params s.variant

end Sys2Proof.Machine
end

