-- ==== Sys2Proof/Machine/Ops.lean ====
section
/-! DEFINITION. The named operations of the machine: system memory (spec/20_memory.md), the register window
(spec/10_state.md R8), the end of a command by an error (spec/60_exceptions.md R122) and the ways out of the error state
(R125), its end without one (spec/45_commands.md R114), and starting a command (R108 to R111). -/

namespace Sys2Proof.Machine

/-! ### System memory -/

/-- `MemRead(a, 1)` (R7): the byte memory lists at an address, and `Config.unlisted` where it lists none. -/
def Memory.read : List Host.Cell → Nat → Byte
  | [], _ => Config.unlisted
  | (b, v) :: m, a => if a = b then v else Memory.read m a

/-- `MemWrite(a, 1, v)` (R7), keeping the canonical form: the entry at `a` is replaced, inserted in order, or removed
where the byte is what an unlisted address reads as. -/
def Memory.write : List Host.Cell → Nat → Byte → List Host.Cell
  | [], a, v => if v = Config.unlisted then [] else [(a, v)]
  | (b, w) :: m, a, v =>
    if a < b then (if v = Config.unlisted then (b, w) :: m else (a, v) :: (b, w) :: m)
    else if a = b then (if v = Config.unlisted then m else (a, v) :: m)
    else (b, w) :: Memory.write m a v

/-- The canonical form from an address on: strictly rising addresses of the address space, none below `lo`, and no entry
equal to what an unlisted address reads as. -/
def Memory.wfFrom (lo : Nat) : List Host.Cell → Bool
  | [] => true
  | (a, v) :: m =>
    decide (lo ≤ a) && decide (a < Config.addressSpace) && decide (v ≠ Config.unlisted) && Memory.wfFrom (a + 1) m

/-- Memory is in its canonical form, so that equal memories are equal lists. -/
def Memory.wf (m : List Host.Cell) : Bool := Memory.wfFrom 0 m

/-- Writing a byte sequence at increasing addresses, one byte at a time (R32). -/
def Memory.writeBytes (m : List Host.Cell) (base : Nat) : List Byte → List Host.Cell
  | [] => m
  | v :: rest => Memory.writeBytes (Memory.write m base v) (base + 1) rest

/-- `count` bytes at increasing addresses take free values, drawn from the `k`-th on (R136). -/
def Memory.writeFree (m : List Host.Cell) (base k : Nat) : Nat → List Host.Cell
  | 0 => m
  | count + 1 => Memory.writeFree (Memory.write m base (Config.freeByte k)) (base + 1) (k + 1) count

/-- `S[i]` and `B[i]` (R28): byte `i` of the latched input region. -/
def State.srcByte (s : State) (i : Nat) : Byte := Memory.read s.mem (s.latSrcAddr.toNat + i)

/-- Byte `i` of the latched output region (R119, output index). -/
def State.dstByte (s : State) (i : Nat) : Byte := Memory.read s.mem (s.latDstAddr.toNat + i)

/-- The address a stream or output cursor of a region names (R18, R119). -/
def regionAddress (base : Word) (i : Nat) : Nat := base.toNat + i

/-- Whether an address lies in the region [base, base + len) (R11, R12). -/
def inRegion (base len addr : Word) : Bool :=
  decide (base.toNat ≤ addr.toNat) && decide (addr.toNat < base.toNat + len.toNat)

/-- A region is legal when it does not pass the end of the address space (R37). -/
def regionLegal (base len : Word) : Bool := decide (base.toNat + len.toNat ≤ Config.addressSpace)

/-- The two regions share a byte; a region of length 0 shares none (R38, R111). -/
def regionsShare (srcAddr srcLen dstAddr dstCap : Word) : Bool :=
  decide (0 < srcLen.toNat) && decide (0 < dstCap.toNat)
    && decide (srcAddr.toNat < dstAddr.toNat + dstCap.toNat) && decide (dstAddr.toNat < srcAddr.toNat + srcLen.toNat)

/-- Both latched regions are legal, so that no engine address leaves the address space (R37). -/
def State.regionsLegal (s : State) : Bool :=
  regionLegal s.latSrcAddr s.latSrcLen && regionLegal s.latDstAddr s.latDstCap

/-- Every output index below N names a byte of the output region (R93: N <= DST_CAP). -/
def State.outputFits (s : State) : Bool :=
  regionLegal s.latDstAddr s.latDstCap && decide (s.dec.n ≤ s.latDstCap.toNat)

/-- Every input cursor's range lies inside the container (R94). -/
def State.inputFits (s : State) : Bool :=
  regionLegal s.latSrcAddr s.latSrcLen && decide (s.dec.fpLim ≤ s.latSrcLen.toNat)
    && decide (s.dec.dpLim ≤ s.latSrcLen.toNat) && decide (s.dec.bpLim ≤ s.latSrcLen.toNat)

/-! ### STATUS, and the end of a command -/

/-- STATUS.BUSY (R10). -/
def State.busy (s : State) : Bool := s.status.getLsbD 0

/-- STATUS.DONE (R10). -/
def State.done (s : State) : Bool := s.status.getLsbD 1

/-- STATUS.ERR (R10). -/
def State.err (s : State) : Bool := s.status.getLsbD 2

/-- STATUS.ERRCODE (R10). -/
def State.errCode (s : State) : Nibble := s.status.extractLsb' 8 4

/-- STATUS while a command runs (R108): BUSY alone. -/
def statusBusy : Word := 0x00000001

/-- STATUS after a command completed (R114): DONE alone. -/
def statusDone : Word := 0x00000002

/-- The error code of a cause (R120, R121). -/
def ErrorCause.code : ErrorCause → Nat
  | .flagsFull | .dictFull | .bytesFull | .containerTooBig | .decodedTooBig => 1
  | .badMagic => 2
  | .shortContainer | .badAuxOffset | .flagOverrun | .descriptorOverrun => 3
  | .extraOverrun | .literalOverrun | .beforeStart | .pastDecodedSize => 3
  | .inputSize | .decodedSize => 4
  | .reservedOp | .reservedVariant | .reservedBits | .inputWraps | .outputWraps | .regionsOverlap => 5

/-- The subcause of a cause (R121). -/
def ErrorCause.sub : ErrorCause → Nat
  | .flagsFull => 1
  | .dictFull => 2
  | .bytesFull => 3
  | .containerTooBig => 4
  | .decodedTooBig => 5
  | .badMagic => 1
  | .shortContainer => 1
  | .badAuxOffset => 2
  | .flagOverrun => 3
  | .descriptorOverrun => 4
  | .extraOverrun => 5
  | .literalOverrun => 6
  | .beforeStart => 7
  | .pastDecodedSize => 8
  | .inputSize => 1
  | .decodedSize => 2
  | .reservedOp => 1
  | .reservedVariant => 2
  | .reservedBits => 3
  | .inputWraps => 4
  | .outputWraps => 5
  | .regionsOverlap => 6

/-- STATUS after an error: `(CODE << 8) | 0x4` (R122). -/
def ErrorCause.status (e : ErrorCause) : Word := (BitVec.ofNat 32 e.code <<< 8) ||| 0x00000004

/-- RELEASE (R62): the three buffers become empty. -/
def State.release (s : State) : State := { s with flags := [], dict := [], bytes := [] }

/-- ERROR_ENTRY (R122): how every error ends a command. The counters keep the tokens completed before the raise. The
internal state that R25 leaves unspecified in IDLE keeps its values (DESIGN CHOICE, notes/assumptions/26.md). -/
def State.errorEntry (e : ErrorCause) (s : State) : State :=
  { s.release with
    phase := .idle
    status := e.status
    errInfo := BitVec.ofNat 32 e.sub
    outLen := 0 }

/-- CLEAR's effect (R110), one of the two ways out of the error state (R125; the other is `State.beginCommand`). -/
def State.clearStatus (s : State) : State :=
  { s with status := 0, errInfo := 0, outLen := 0, litCount := 0, matchCount := 0 }

/-- COMPLETE(N) (R114). The internal state that R25 leaves unspecified in IDLE (latches, variant, encoder, match finder,
decoder) keeps its last values (DESIGN CHOICE, notes/assumptions/26.md). -/
def State.complete (n : Nat) (s : State) : State :=
  { s with outLen := BitVec.ofNat 32 n, status := statusDone, phase := .idle }

/-- The result of an operation that may raise: the next state, or the cause with the state at the raise (R122). -/
abbrev Progress := Except (ErrorCause × State) State

/-- The state a raising operation leaves: its own, or the error entry from the state at the raise (R122). The encoder's
internal state then stays as it was at the raise (R25; DESIGN CHOICE, notes/assumptions/26.md). -/
def settle : Progress → State
  | .ok s => s
  | .error (e, s) => s.errorEntry e

/-! ### Starting a command -/

/-- Step 2 and step 3 of R108: STATUS shows BUSY, the status registers and counters are 0, the four region registers are
latched, and `v` is the word's VARIANT. A reserved VARIANT names no variant and leaves `v` as it was; START_CHECKS then
ends the command (notes/assumptions/7.md). -/
def State.beginCommand (w : Word) (s : State) : State :=
  { s with
    status := statusBusy
    errInfo := 0
    outLen := 0
    litCount := 0
    matchCount := 0
    litSeen := 0
    matchSeen := 0
    latSrcAddr := s.srcAddr
    latSrcLen := s.srcLen
    latDstAddr := s.dstAddr
    latDstCap := s.dstCap
    variant := (variantOfCode (cmdVariant w)).getD s.variant }

/-- START_CHECKS (R111): the first check that fails, in R111's order. -/
def State.startChecks (w : Word) (s : State) : Option ErrorCause :=
  if 3 ≤ (cmdOp w).toNat then some .reservedOp
  else if cmdReserved w ≠ 0 then some .reservedBits
  else if 5 ≤ (cmdVariant w).toNat then some .reservedVariant
  else if regionLegal s.latSrcAddr s.latSrcLen = false then some .inputWraps
  else if regionLegal s.latDstAddr s.latDstCap = false then some .outputWraps
  else if regionsShare s.latSrcAddr s.latSrcLen s.latDstAddr s.latDstCap then some .regionsOverlap
  else if s.latSrcLen.toNat = 0 ∨ Config.sizeMax < s.latSrcLen.toNat then some .inputSize
  else none

/-- The start of ENCODE's work (R59, R75, R112): empty buffers and a fresh token encoder. -/
def State.startEncode (s : State) : State :=
  { s.release with phase := .runEncode, enc := ⟨0, 0, 0, 0⟩ }

/-! ### The register window -/

/-- MMIO_BASE (R6, R36). -/
def Params.mmioBase (p : Params) : Word := p.mmioPage ++ (0 : BitVec 8)

/-- The offset of an address in the register window of 256 bytes at MMIO_BASE, if it lies there (R27, R119). -/
def regOffset? (p : Params) (addr : Word) : Option (BitVec 8) :=
  if addr.extractLsb' 8 24 = p.mmioPage then some (addr.extractLsb' 0 8) else none

/-- The address of a register offset (R119). -/
def regAddress (p : Params) (off : BitVec 8) : Word := p.mmioPage ++ off

/-- An access is an aligned 32-bit access (R34). -/
def alignedWord (width : AccessWidth) (off : BitVec 8) : Bool := width = .word && off.extractLsb' 0 2 = 0

/-- What an aligned read of a register returns, the counters of a running command excepted (R8, R9, R142): CMD and the
reserved offsets read 0. -/
def State.register (s : State) (off : BitVec 8) : Word :=
  match off.toNat with
  | 0x04 => s.status
  | 0x08 => s.srcAddr
  | 0x0C => s.srcLen
  | 0x10 => s.dstAddr
  | 0x14 => s.dstCap
  | 0x18 => s.outLen
  | 0x1C => s.errInfo
  | 0x20 => s.litCount
  | 0x24 => s.matchCount
  | 0x28 => s.params.lzcId
  | _ => 0

/-- An aligned write of a register other than CMD (R8, R11, R12): the four region registers take the value, busy or not
(R13, R141); a write of a read-only register or a reserved offset is ignored. -/
def State.setRegister (off : BitVec 8) (v : Word) (s : State) : State :=
  match off.toNat with
  | 0x08 => { s with srcAddr := v }
  | 0x0C => { s with srcLen := v }
  | 0x10 => { s with dstAddr := v }
  | 0x14 => { s with dstCap := v }
  | _ => s

end Sys2Proof.Machine
end

