-- ==== Sys2Proof/Machine/Buffers.lean ====
section
/-! DEFINITION. The stream buffers' operations (spec/40_stream_buffers.md): APPEND for each of the three buffers (R60),
and the appends of one token's elements. COUNT and AS_SLICE (R61) are `List.length` and the list itself; RELEASE (R62) is
`State.release`. -/

namespace Sys2Proof.Machine

/-- APPEND(FLAGS, x) (R60): AllocationFailure 1 when FLAGS is full, and nothing is appended then. -/
def appendFlags (x : Word) (s : State) : Progress :=
  if s.flags.length < s.params.flagsCap.toNat then .ok { s with flags := s.flags ++ [x] }
  else .error (.flagsFull, s)

/-- APPEND(DICT, x) (R60): AllocationFailure 2 when DICT is full, and nothing is appended then. -/
def appendDict (x : Half) (s : State) : Progress :=
  if s.dict.length < s.params.dictCap.toNat then .ok { s with dict := s.dict ++ [x] }
  else .error (.dictFull, s)

/-- APPEND(BYTES, x) (R60): AllocationFailure 3 when BYTES is full, and nothing is appended then. -/
def appendBytes (x : Byte) (s : State) : Progress :=
  if s.bytes.length < s.params.bytesCap.toNat then .ok { s with bytes := s.bytes ++ [x] }
  else .error (.bytesFull, s)

/-- The appends of a token's dictionary entries, in order (R80). -/
def appendAllDict : List Half → State → Progress
  | [], s => .ok s
  | x :: rest, s =>
    match appendDict x s with
    | .error e => .error e
    | .ok s' => appendAllDict rest s'

/-- The appends of a token's bytes, in order (R79, R80). -/
def appendAllBytes : List Byte → State → Progress
  | [], s => .ok s
  | x :: rest, s =>
    match appendBytes x s with
    | .error e => .error e
    | .ok s' => appendAllBytes rest s'

end Sys2Proof.Machine
end

