-- ==== Sys2Proof/Machine/Flags.lean ====
section
/-! DEFINITION. The token flag bits, LZC's only flags besides STATUS (spec/10_state.md R26): the place of a token's bit in
its flag word (spec/30_encoding.md R49), the encoder's FLAGBIT and FINISH_FLAGS (spec/42_token_encoder.md R81, R82), and
the decoder's reading of the next bit (spec/44_decoder.md R98). -/

namespace Sys2Proof.Machine

/-- The flag word whose only set bit is the one of token `j` of a group, bit FW-1-j (R49). -/
def flagMask (fw j : Nat) : Word := 1#32 <<< (fw - 1 - j)

/-- The bit of token `j` of a group: 1 for a literal, 0 for a match (R49). -/
def flagOf (fw : Nat) (word : Word) (j : Nat) : Bool := word.getLsbD (fw - 1 - j)

/-- FLAGBIT(bit) (R81): the bit of the token just emitted goes into the accumulator, which is flushed to FLAGS when it is
full. -/
def flagBit (bit : Bool) (s : State) : Progress :=
  let facc := s.enc.facc ||| (if bit then flagMask s.fw s.enc.fbits else 0)
  let s' : State := { s with enc := { s.enc with facc := facc, fbits := s.enc.fbits + 1, tokens := s.enc.tokens + 1 } }
  if s.enc.fbits + 1 = s.fw then
    match appendFlags facc s' with
    | .error e => .error e
    | .ok t => .ok { t with enc := { t.enc with facc := 0, fbits := 0 } }
  else .ok s'

/-- FINISH_FLAGS (R82): the partial word, if any, goes to FLAGS. -/
def finishFlags (s : State) : Progress :=
  if 0 < s.enc.fbits then
    match appendFlags s.enc.facc s with
    | .error e => .error e
    | .ok t => .ok { t with enc := { t.enc with fbits := 0 } }
  else .ok s

/-- The decoder's next flag bit, `word[left - 1]` (R96, R98). -/
def nextFlag (s : State) : Bool := s.dec.word.getLsbD (s.dec.left - 1)

/-- ConsumeBit's `left <- left - 1` (R96, R98). -/
def consumeFlag (s : State) : State := { s with dec := { s.dec with left := s.dec.left - 1 } }

/-- The decoder's two states (R24, R96). -/
inductive DecoderState where
  | readFlagWord
  | consumeBit
deriving DecidableEq, Repr

/-- The decoder's state, a view of `left` (R96: `if left = 0: state ReadFlagWord`). -/
def decoderState (s : State) : DecoderState := if s.dec.left = 0 then .readFlagWord else .consumeBit

end Sys2Proof.Machine
end

