-- ==== Sys2Proof/Machine/MatchFinder.lean ====
section
/-! DEFINITION. The match finder (spec/41_match_finder.md). FIND is defined by its result (R65 to R72); beside it stand the
skip table (R73) and one conforming scan that uses it (R74). The source is a function from indices to bytes, `S[i]` of
R28. -/

namespace Sys2Proof.Machine

/-- What FIND returns (R65): a distance and a length, (0, 0) for no match. -/
structure Found where
  dist : Nat
  len : Nat
deriving DecidableEq, Repr

/-- The best candidate so far (R65): `best_p` and `best_n`, with `len` 0 for none. -/
structure Candidate where
  pos : Nat
  len : Nat
deriving DecidableEq, Repr

/-- How many bytes from index `p` on equal those from index `c` on, up to `limit` (R70). -/
def runLength (src : Nat → Byte) (p c : Nat) : Nat → Nat
  | 0 => 0
  | limit + 1 => if src p = src c then runLength src (p + 1) (c + 1) limit + 1 else 0

/-- `S[p..p+3) = SEED` with `SEED = S[c..c+3)` (R68, R69). -/
def seedAt (src : Nat → Byte) (p c : Nat) : Bool :=
  src p = src c && src (p + 1) = src (c + 1) && src (p + 2) = src (c + 2)

/-- The length of the candidate at `p` (R70), 0 where `p` is no candidate (R69). -/
def candidateLength (src : Nat → Byte) (p c cap : Nat) : Nat :=
  if seedAt src p c then Config.seedLen + runLength src (p + 3) (c + 3) (cap - Config.seedLen) else 0

/-- One position of FIND's loop (R65): a longer candidate wins, and of two equal ones the later wins where MF_TIE is
NEAREST (R71). -/
def improve (tie : MfTie) (best : Candidate) (p len : Nat) : Candidate :=
  if len = 0 then best
  else if best.len < len then ⟨p, len⟩
  else if len = best.len ∧ tie = .nearest then ⟨p, len⟩
  else best

/-- FIND's loop (R65) over `todo` positions from `p` on. -/
def searchFrom (src : Nat → Byte) (c cap : Nat) (tie : MfTie) : Nat → Nat → Candidate → Candidate
  | 0, _, best => best
  | todo + 1, p, best => searchFrom src c cap tie todo (p + 1) (improve tie best p (candidateLength src p c cap))

/-- `lo`, the first position of the search window (R67). -/
def windowStart (c : Nat) : Nat := c - Config.window

/-- `cap`, the longest length FIND may return (R66). -/
def findCap (len maxLen c : Nat) : Nat := min (maxLen + 1) (len - c)

/-- The pair FIND returns for its best candidate (R65). -/
def foundOf (c : Nat) (best : Candidate) : Found :=
  if best.len = 0 then ⟨0, 0⟩ else ⟨c - best.pos, best.len⟩

/-- FIND(c) (R65), for a source of length `len`, the variant's MAXLEN and the parameter MF_TIE. -/
def find (src : Nat → Byte) (len maxLen : Nat) (tie : MfTie) (c : Nat) : Found :=
  if len - c < Config.seedLen then ⟨0, 0⟩
  else foundOf c (searchFrom src c (findCap len maxLen c) tie (c - windowStart c) (windowStart c) ⟨0, 0⟩)

/-- SEED (R68): the three source bytes at the cursor. -/
def seedOf (src : Nat → Byte) (c : Nat) : List Byte := [src c, src (c + 1), src (c + 2)]

/-- SKIP (R73): 3 for every byte value, then 2 for the seed's first byte, then 1 for its second. -/
def skipTable (seed : List Byte) : List Nat :=
  ((List.replicate 256 3).set (seed.getD 0 0).toNat 2).set (seed.getD 1 0).toNat 1

/-- The SKIP entry of a byte. -/
def skipFor (skip : List Nat) (b : Byte) : Nat := skip.getD b.toNat Config.seedLen

/-- A Horspool scan (R74): alignments from `p` on, each followed by a shift of SKIP[S[p + 2]], while p < c; `fuel` bounds
the number of alignments. -/
def horspoolFrom (src : Nat → Byte) (c cap : Nat) (tie : MfTie) (skip : List Nat) : Nat → Nat → Candidate → Candidate
  | 0, _, best => best
  | fuel + 1, p, best =>
    if p < c then
      horspoolFrom src c cap tie skip fuel (p + skipFor skip (src (p + 2)))
        (improve tie best p (candidateLength src p c cap))
    else best

/-- FIND(c) computed by the Horspool scan of R74. The machine uses `find`. -/
def findByScan (src : Nat → Byte) (len maxLen : Nat) (tie : MfTie) (c : Nat) : Found :=
  if len - c < Config.seedLen then ⟨0, 0⟩
  else
    foundOf c (horspoolFrom src c (findCap len maxLen c) tie (skipTable (seedOf src c)) (c - windowStart c)
      (windowStart c) ⟨0, 0⟩)

/-- FIND(c) on the running command's source (R28, R65). -/
def State.find (s : State) (c : Nat) : Found :=
  Sys2Proof.Machine.find s.srcByte s.latSrcLen.toNat s.maxLen s.params.mfTie c

/-- The state FIND(c) writes (R65): SEED and SKIP, where a seed can be formed (R68, R73). -/
def State.noteFind (c : Nat) (s : State) : State :=
  if s.latSrcLen.toNat - c < Config.seedLen then s
  else { s with seed := seedOf s.srcByte c, skip := skipTable (seedOf s.srcByte c) }

end Sys2Proof.Machine
end

