-- ==== Sys2Proof/Machine/TokenEncoder.lean ====
section
/-! DEFINITION. The token encoder (spec/42_token_encoder.md): the decision at a cursor with the lookahead deferral (R76,
R77) and the clamp (R78), EMIT_LIT and EMIT_MATCH (R79, R80), and one round of ENCODE_TOKENS as one engine step. The
whole token sequence as a pure function (R84) stands beside it. -/

namespace Sys2Proof.Machine

/-- A token as the encoder produces it (spec/00_scope.md section 5): a literal byte, or a match of length `n` and distance
`d`. -/
inductive Token where
  | literal (b : Byte)
  | copy (n d : Nat)
deriving DecidableEq, Repr

/-- The number of source bytes a token covers (R76). -/
def Token.span : Token → Nat
  | .literal _ => 1
  | .copy n _ => n

/-- The tokens of one round of ENCODE_TOKENS at cursor `c` (R76 to R78), given FIND: a literal, or a match clamped to
MAXLEN, or, where the match one byte later is longer by more than 1, a literal and that match. -/
def decideTokens (src : Nat → Byte) (findAt : Nat → Found) (maxLen c : Nat) : List Token :=
  let here := findAt c
  let next := findAt (c + 1)
  if here.len < Config.minMatch then [.literal (src c)]
  else if here.len + 1 < next.len then [.literal (src c), .copy (min next.len maxLen) next.dist]
  else [.copy (min here.len maxLen) here.dist]

/-- The number of source bytes a token sequence covers. -/
def spanOf : List Token → Nat
  | [] => 0
  | t :: rest => t.span + spanOf rest

/-- The tokens of ENCODE_TOKENS from cursor `c` on (R76, R84); each round advances the cursor, so `fuel` of the bytes left
suffices. -/
def tokensFrom (src : Nat → Byte) (len maxLen : Nat) (tie : MfTie) : Nat → Nat → List Token
  | 0, _ => []
  | fuel + 1, c =>
    if c < len then
      let round := decideTokens src (find src len maxLen tie) maxLen c
      round ++ tokensFrom src len maxLen tie fuel (c + spanOf round)
    else []

/-- The token sequence of a source (R84): a function of the source, the variant's MAXLEN and MF_TIE alone. -/
def sourceTokens (src : Nat → Byte) (len maxLen : Nat) (tie : MfTie) : List Token :=
  tokensFrom src len maxLen tie len 0

/-- EMIT_LIT(b) (R79). -/
def emitLiteral (b : Byte) (s : State) : Progress :=
  match appendBytes b s with
  | .error e => .error e
  | .ok t =>
    match flagBit true t with
    | .error e => .error e
    | .ok u => .ok { u with litCount := u.litCount + 1 }

/-- EMIT_MATCH(n, d) (R80): the descriptor and the extra entry or escape byte of the variant's coding, in R80's order, then
the flag bit, then the counter. -/
def emitMatch (n d : Nat) (s : State) : Progress :=
  let code := tokenCode (matchInstr s.coding n d)
  match appendAllDict code.dict s with
  | .error e => .error e
  | .ok t =>
    match appendAllBytes code.bytes t with
    | .error e => .error e
    | .ok u =>
      match flagBit false u with
      | .error e => .error e
      | .ok v => .ok { v with matchCount := v.matchCount + 1 }

/-- The cursor's advance past a token just emitted (R76). -/
def State.advance (n : Nat) (s : State) : State := { s with enc := { s.enc with c := s.enc.c + n } }

/-- One token emitted, and the cursor advanced past it (R76). -/
def emitToken (t : Token) (s : State) : Progress :=
  match (match t with | .literal b => emitLiteral b s | .copy n d => emitMatch n d s) with
  | .error e => .error e
  | .ok u => .ok (u.advance t.span)

/-- The tokens of a round emitted in order; the first that raises ends it (R76). -/
def emitTokens : List Token → State → Progress
  | [], s => .ok s
  | t :: rest, s =>
    match emitToken t s with
    | .error e => .error e
    | .ok u => emitTokens rest u

/-- The state the round's FINDs write: FIND(c), and FIND(c + 1) where FIND(c) found a match (R76, R77). -/
def State.noteFinds (s : State) : State :=
  let s' := s.noteFind s.enc.c
  if (s.find s.enc.c).len < Config.minMatch then s' else s'.noteFind (s.enc.c + 1)

/-- The tokens of the next round (R76) in a state of RUN_ENCODE. -/
def State.nextTokens (s : State) : List Token := decideTokens s.srcByte s.find s.maxLen s.enc.c

/-- One round of ENCODE_TOKENS (R76). -/
def encodeRound (s : State) : Progress := emitTokens s.nextTokens s.noteFinds

end Sys2Proof.Machine
end

