-- ==== Sys2Proof/Machine/Assembler.lean ====
section
/-! DEFINITION. The stream assembler (spec/43_stream_assembler.md): the assembled size (R85), the three layouts (R87, R88,
R89; spec/30_encoding.md R48, R54, R55, R56), and the end of ENCODE: FINISH_FLAGS, the fit check (R86), the output writes
(R90), RELEASE and COMPLETE (R112). -/

namespace Sys2Proof.Machine

/-- A flag word as its bytes in a container, by layout (R54, R55, R56). -/
def flagWordBytes (layout : Layout) (w : Word) : List Byte :=
  match layout with
  | .tables => be32 w
  | .groups => be16 (w.setWidth 16)
  | .stream => [w.setWidth 8]

/-- N, the assembled size (R85). -/
def assembledSize (layout : Layout) (flags : List Word) (dict : List Half) (bytes : List Byte) : Nat :=
  Config.hdrLen + flagBytesOf layout * flags.length + 2 * dict.length + bytes.length

/-- ASSEMBLE_TABLES (R87), for the magic of the variant and a source of length `len`. -/
def assembleTables (magic len : Word) (flags : List Word) (dict : List Half) (bytes : List Byte) : List Byte :=
  let a1 := Config.hdrLen + 4 * flags.length
  let a2 := a1 + 2 * dict.length
  be32 magic ++ be32 len ++ be32 (BitVec.ofNat 32 a1) ++ be32 (BitVec.ofNat 32 a2)
    ++ flags.flatMap (flagWordBytes .tables) ++ dict.flatMap be16 ++ bytes

/-- The descriptors of one group of the Groups layout (R88): tokens `j` on, `count` of them, each match taking the next
dictionary entry; with the entries left. -/
def groupDescriptors (w : Word) : Nat → Nat → List Half → List Byte × List Half
  | 0, _, dict => ([], dict)
  | count + 1, j, dict =>
    if flagOf 16 w j then groupDescriptors w count (j + 1) dict
    else
      match dict with
      | [] => groupDescriptors w count (j + 1) []
      | d :: rest =>
        let (out, left) := groupDescriptors w count (j + 1) rest
        (be16 d ++ out, left)

/-- The groups of the Groups layout (R88), with `tokens` tokens left to describe. -/
def groupBodies : List Word → Nat → List Half → List Byte
  | [], _, _ => []
  | w :: rest, tokens, dict =>
    let (out, left) := groupDescriptors w (min 16 tokens) 0 dict
    flagWordBytes .groups w ++ out ++ groupBodies rest (tokens - 16) left

/-- ASSEMBLE_GROUPS (R88), with GROUPS_HDR_W1 in the second header field. -/
def assembleGroups (magic w1 len : Word) (tokens : Nat) (flags : List Word) (dict : List Half) (bytes : List Byte) :
    List Byte :=
  let a2 := Config.hdrLen + 2 * flags.length + 2 * dict.length
  be32 magic ++ be32 w1 ++ be32 len ++ be32 (BitVec.ofNat 32 a2) ++ groupBodies flags tokens dict ++ bytes

/-- What one token of the Stream layout takes from DICT and BYTES (R89): its bytes in the container, and what is left. -/
def streamToken (coding : Coding) (literal : Bool) (dict : List Half) (bytes : List Byte) :
    List Byte × List Half × List Byte :=
  if literal then (bytes.take 1, dict, bytes.drop 1)
  else
    match dict with
    | [] => ([], [], bytes)
    | d :: rest =>
      match extraOf coding (descNibble d) with
      | .none => (be16 d, rest, bytes)
      | .escape => (be16 d ++ bytes.take 1, rest, bytes.drop 1)
      | .half => (be16 d ++ (rest.take 1).flatMap be16, rest.drop 1, bytes)

/-- The tokens of one unit of the Stream layout (R89): tokens `j` on, `count` of them. -/
def unitTokens (coding : Coding) (w : Word) : Nat → Nat → List Half → List Byte → List Byte × List Half × List Byte
  | 0, _, dict, bytes => ([], dict, bytes)
  | count + 1, j, dict, bytes =>
    let (out, dict', bytes') := streamToken coding (flagOf 8 w j) dict bytes
    let (more, dict'', bytes'') := unitTokens coding w count (j + 1) dict' bytes'
    (out ++ more, dict'', bytes'')

/-- The units of the Stream layout (R89), with `tokens` tokens left to describe. -/
def unitBodies (coding : Coding) : List Word → Nat → List Half → List Byte → List Byte
  | [], _, _, _ => []
  | w :: rest, tokens, dict, bytes =>
    let (out, dict', bytes') := unitTokens coding w (min 8 tokens) 0 dict bytes
    flagWordBytes .stream w ++ out ++ unitBodies coding rest (tokens - 8) dict' bytes'

/-- ASSEMBLE_STREAM (R89). -/
def assembleStream (coding : Coding) (magic len : Word) (tokens : Nat) (flags : List Word) (dict : List Half)
    (bytes : List Byte) : List Byte :=
  be32 magic ++ be32 len ++ be32 0 ++ be32 0 ++ unitBodies coding flags tokens dict bytes

/-- The container of a finished token phase (R112): ASSEMBLE_* by the layout of the variant. -/
def State.container (s : State) : List Byte :=
  match s.layout with
  | .tables => assembleTables (magicOf s.variant) s.latSrcLen s.flags s.dict s.bytes
  | .groups =>
    assembleGroups (magicOf s.variant) s.params.groupsHdrW1 s.latSrcLen s.enc.tokens s.flags s.dict s.bytes
  | .stream => assembleStream s.coding (magicOf s.variant) s.latSrcLen s.enc.tokens s.flags s.dict s.bytes

/-- N of a finished token phase (R85). -/
def State.containerSize (s : State) : Nat := assembledSize s.layout s.flags s.dict s.bytes

/-- R90: the container goes to the output region from its first byte on. -/
def State.writeOutput (out : List Byte) (s : State) : State :=
  { s with mem := Memory.writeBytes s.mem s.latDstAddr.toNat out }

/-- The end of ENCODE (R112) once c = L: FINISH_FLAGS (R82), the fit check (R86), the output writes (R90), RELEASE (R62),
COMPLETE(N) (R114). -/
def finishEncode (s : State) : Progress :=
  match finishFlags s with
  | .error e => .error e
  | .ok t =>
    if t.latDstCap.toNat < t.containerSize then .error (.containerTooBig, t)
    else .ok ((t.writeOutput t.container).release.complete t.containerSize)

end Sys2Proof.Machine
end

