-- ==== Sys2Proof/Machine/Operands.lean ====
section
/-! DEFINITION. The operands of the decoder (spec/44_decoder.md): the three logical input streams with their cursors and
limits (R94), READ (R94), DECODE_HEADER (R93) and the cursors' start values (R95), the reading of a flag word (R97), and
the reading of a token with its escape byte or extra halfword (R99, R100, R101), which is the decoder's fetch. -/

namespace Sys2Proof.Machine

/-- The logical input streams (R94): flag words, dictionary entries, bytes. -/
inductive InStream where
  | f
  | d
  | y
deriving DecidableEq, Repr

/-- The input cursors (R24, R94). -/
inductive Cursor where
  | fp
  | dp
  | bp
deriving DecidableEq, Repr

/-- The cursor a stream is read through, by layout (R94's table). -/
def cursorOf : Layout → InStream → Cursor
  | .tables, .f => .fp
  | .tables, .d => .dp
  | .tables, .y => .bp
  | .groups, .f => .fp
  | .groups, .d => .fp
  | .groups, .y => .bp
  | .stream, .f => .fp
  | .stream, .d => .fp
  | .stream, .y => .fp

/-- The value of a cursor. -/
def cursorValue (d : Decoder) : Cursor → Nat
  | .fp => d.fp
  | .dp => d.dp
  | .bp => d.bp

/-- The end of a cursor's range. -/
def cursorLimit (d : Decoder) : Cursor → Nat
  | .fp => d.fpLim
  | .dp => d.dpLim
  | .bp => d.bpLim

/-- The decoder with a cursor moved. -/
def setCursor (c : Cursor) (x : Nat) (d : Decoder) : Decoder :=
  match c with
  | .fp => { d with fp := x }
  | .dp => { d with dp := x }
  | .bp => { d with bp := x }

/-- The big-endian value of the `w` bytes of the container at index `x` (R94: `B[x]`, `RBE16(B, x)`, `RBE32(B, x)`). -/
def containerField (s : State) (x w : Nat) : Nat :=
  bigEndian ((List.range w).map fun k => s.srcByte (x + k))

/-- READ(stream, w, sub) (R94), `e` being the MalformedStream cause of subcause `sub`. -/
def readStream (st : InStream) (w : Nat) (e : ErrorCause) (s : State) : Except ErrorCause (Nat × State) :=
  let c := cursorOf s.layout st
  let x := cursorValue s.dec c
  if cursorLimit s.dec c < x + w then .error e
  else .ok (containerField s x w, { s with dec := setCursor c (x + w) s.dec })

/-- The index of the decoded-size field in the header (R48, R93). -/
def sizeFieldAt : Layout → Nat
  | .groups => 8
  | .tables | .stream => 4

/-- The aux-offset check of DECODE_HEADER (R93), with |B| = `len`; the Stream layout ignores the aux fields. -/
def auxLegal (layout : Layout) (a1 a2 len : Nat) : Bool :=
  match layout with
  | .tables => decide (Config.hdrLen ≤ a1) && decide (a1 ≤ a2) && decide (a2 ≤ len)
  | .groups => decide (Config.hdrLen ≤ a2) && decide (a2 ≤ len)
  | .stream => true

/-- DECODE_HEADER's checks (R93) in their order: the decoded size N, or the first check's cause. -/
def headerChecks (s : State) : Except ErrorCause Nat :=
  let len := s.latSrcLen.toNat
  let n := containerField s (sizeFieldAt s.layout) 4
  if len < Config.hdrLen then .error .shortContainer
  else if containerField s 0 4 ≠ (magicOf s.variant).toNat then .error .badMagic
  else if n = 0 ∨ Config.sizeMax < n then .error .decodedSize
  else if auxLegal s.layout (containerField s 8 4) (containerField s 12 4) len = false then .error .badAuxOffset
  else if s.latDstCap.toNat < n then .error .decodedTooBig
  else .ok n

/-- The decoder as its body starts (R94, R95), with the aux fields `a1` and `a2` and |B| = `len`. The cursors and limits the
layout does not use, and the current flag word, which R95 does not list, are 0 (DESIGN CHOICE, notes/assumptions/24.md). -/
def startDecoder (layout : Layout) (n a1 a2 len : Nat) : Decoder :=
  match layout with
  | .tables => ⟨n, 0, Config.hdrLen, a1, a1, a2, a2, len, 0, 0⟩
  | .groups => ⟨n, 0, Config.hdrLen, a2, 0, 0, a2, len, 0, 0⟩
  | .stream => ⟨n, 0, Config.hdrLen, len, 0, 0, 0, 0, 0, 0⟩

/-- The start of DECODE's work (R113): DECODE_HEADER, then the cursors of R95; or the header's error. -/
def State.startDecode (s : State) : State :=
  let s' : State := { s with phase := .runDecode }
  match headerChecks s' with
  | .error e => s'.errorEntry e
  | .ok n =>
    { s' with dec := startDecoder s.layout n (containerField s' 8 4) (containerField s' 12 4) s.latSrcLen.toNat }

/-- ReadFlagWord (R97): the next flag word becomes the current one, none of its bits consumed. -/
def readFlagWord (s : State) : Except ErrorCause State :=
  match readStream .f (s.fw / 8) .flagOverrun s with
  | .error e => .error e
  | .ok (v, t) => .ok { t with dec := { t.dec with word := BitVec.ofNat 32 v, left := s.fw } }

/-- The reading of a match token (R100, R101): its descriptor, then the escape byte or the extra halfword its nibble calls
for. -/
def fetchMatch (s : State) : Except ErrorCause (Instr × State) :=
  match readStream .d 2 .descriptorOverrun s with
  | .error e => .error e
  | .ok (v, t) =>
    let d : Half := BitVec.ofNat 16 v
    match extraOf s.coding (descNibble d) with
    | .none => .ok (matchOf s.coding d 0, t)
    | .escape =>
      match readStream .y 1 .extraOverrun t with
      | .error e => .error e
      | .ok (x, u) => .ok (matchOf s.coding d x, u)
    | .half =>
      match readStream .d 2 .extraOverrun t with
      | .error e => .error e
      | .ok (x, u) => .ok (matchOf s.coding d x, u)

/-- The reading of a literal token (R99): its byte. -/
def fetchLiteral (s : State) : Except ErrorCause (Instr × State) :=
  match readStream .y 1 .literalOverrun s with
  | .error e => .error e
  | .ok (v, t) => .ok (.lit (BitVec.ofNat 8 v), t)

/-- The decoder's fetch: ConsumeBit (R98), then the reads of the token the bit announces. The token it answers has its
operands, and the state has its flag bit and its operands consumed. -/
def fetchToken (s : State) : Except ErrorCause (Instr × State) :=
  if nextFlag s then fetchLiteral (consumeFlag s) else fetchMatch (consumeFlag s)

/-- The byte COPY reads for output index `o` (R103): DST[o - 1 - off], the address DST_ADDR + o - 1 - off. -/
def backReference (base o off : Nat) : Nat := base + o - 1 - off

/-- COPY(n, off) (R103) on memory: one byte at a time, forward, each read after the writes before it. -/
def copyBytes (m : List Host.Cell) (base o off : Nat) : Nat → List Host.Cell
  | 0 => m
  | k + 1 => copyBytes (Memory.write m (base + o) (Memory.read m (backReference base o off))) base (o + 1) off k

end Sys2Proof.Machine
end

