-- ==== Sys2Proof/Machine/Commands.lean ====
section
/-! DEFINITION. The meanings of the command words (spec/45_commands.md): each is what a host write of its word to CMD does
(R108, R109). CLEAR takes effect at once (R110). ENCODE and DECODE start the engine, or end with the error of a failed
check; the engine's own steps then do the work (Machine/Engine.lean; R145 allows one step per token). -/

namespace Sys2Proof.Machine

/-- Step 4 and step 5 of R108: START_CHECKS (R111), then the phase of the command's OP with the start of its work (R112,
R113), or the failed check's error (R122). -/
def State.checkAndStart (w : Word) (s : State) : State :=
  match s.startChecks w with
  | some e => s.errorEntry e
  | none => if cmdOp w = 1 then s.startEncode else s.startDecode

/-- A host write of a word to CMD (R108, R109): ignored while BUSY = 1; CLEAR where OP and the reserved bits are 0;
otherwise the start of a command, legal or not. -/
def State.writeCmd (w : Word) (s : State) : State :=
  if s.busy then s
  else if cmdOp w = 0 ∧ cmdReserved w = 0 then s.clearStatus
  else (s.beginCommand w).checkAndStart w

/-- CLEAR (R110). -/
def execClear (variant : Nibble) (s : State) : Host.Outcome State Fault Refusal :=
  .next (s.writeCmd (commandWord 0 variant))

/-- ENCODE MIO0, the word 0x00000001 (R46, R112). -/
def execEncodeMio0 (s : State) : Host.Outcome State Fault Refusal := .next (s.writeCmd 0x00000001)

/-- ENCODE SMSR00, the word 0x00000011 (R46, R112). -/
def execEncodeSmsr00 (s : State) : Host.Outcome State Fault Refusal := .next (s.writeCmd 0x00000011)

/-- ENCODE Yay0, the word 0x00000021 (R46, R112). -/
def execEncodeYay0 (s : State) : Host.Outcome State Fault Refusal := .next (s.writeCmd 0x00000021)

/-- ENCODE Yaz0, the word 0x00000031 (R46, R112). -/
def execEncodeYaz0 (s : State) : Host.Outcome State Fault Refusal := .next (s.writeCmd 0x00000031)

/-- ENCODE Rvl0, the word 0x00000041 (R46, R112). -/
def execEncodeRvl0 (s : State) : Host.Outcome State Fault Refusal := .next (s.writeCmd 0x00000041)

/-- DECODE MIO0, the word 0x00000002 (R46, R113). -/
def execDecodeMio0 (s : State) : Host.Outcome State Fault Refusal := .next (s.writeCmd 0x00000002)

/-- DECODE SMSR00, the word 0x00000012 (R46, R113). -/
def execDecodeSmsr00 (s : State) : Host.Outcome State Fault Refusal := .next (s.writeCmd 0x00000012)

/-- DECODE Yay0, the word 0x00000022 (R46, R113). -/
def execDecodeYay0 (s : State) : Host.Outcome State Fault Refusal := .next (s.writeCmd 0x00000022)

/-- DECODE Yaz0, the word 0x00000032 (R46, R113). -/
def execDecodeYaz0 (s : State) : Host.Outcome State Fault Refusal := .next (s.writeCmd 0x00000032)

/-- DECODE Rvl0, the word 0x00000042 (R46, R113). -/
def execDecodeRvl0 (s : State) : Host.Outcome State Fault Refusal := .next (s.writeCmd 0x00000042)

end Sys2Proof.Machine
end

