-- ==== Sys2Proof/Machine/Tokens.lean ====
section
/-! DEFINITION. The meanings of the tokens (spec/44_decoder.md R99 to R103). A token comes with its operands, which the
decoder's fetch has read (Machine/Operands.lean); its meaning is the rest of DO_LIT and DO_MATCH: CHECK_MATCH, the output
writes and the counter. A token is executed only by a running DECODE whose output is not full (R96); given to a state
where none runs, it is refused by name (notes/assumptions/14.md). -/

namespace Sys2Proof.Machine

/-- Why a token cannot execute in a state, if it cannot: no DECODE runs, the output region does not hold N bytes (no run
reaches that), the output is full, or the token is of another coding. -/
def tokenGuard (coding : Option Coding) (s : State) : Option Refusal :=
  if s.phase ≠ .runDecode then some .tokenOutsideDecode
  else if s.outputFits = false then some .engineOutsideRegions
  else if s.dec.n ≤ s.dec.o then some .tokenPastEnd
  else if coding ≠ none ∧ coding ≠ some s.coding then some .tokenOfOtherCoding
  else none

/-- DO_LIT after its read (R99): DST[o] <- b, o and LIT_COUNT go up by 1. -/
def State.putLiteral (b : Byte) (s : State) : State :=
  { s with
    mem := Memory.write s.mem (regionAddress s.latDstAddr s.dec.o) b
    dec := { s.dec with o := s.dec.o + 1 }
    litCount := s.litCount + 1 }

/-- CHECK_MATCH(n, off) (R102), in its order. -/
def checkMatch (n off : Nat) (s : State) : Option ErrorCause :=
  if s.dec.o ≤ off then some .beforeStart
  else if s.dec.n < s.dec.o + n then some .pastDecodedSize
  else none

/-- COPY(n, off) (R103) and MATCH_COUNT's increment (R100). -/
def State.putMatch (n off : Nat) (s : State) : State :=
  { s with
    mem := copyBytes s.mem s.latDstAddr.toNat s.dec.o off n
    dec := { s.dec with o := s.dec.o + n }
    matchCount := s.matchCount + 1 }

/-- DO_MATCH after its reads (R100): CHECK_MATCH, then COPY; a failing check ends the command (R122). -/
def State.runMatch (n off : Nat) (s : State) : State :=
  match checkMatch n off s with
  | some e => s.errorEntry e
  | none => s.putMatch n off

/-- A match token of a coding, of length `n` and offset field `off`. -/
def doMatch (coding : Coding) (n : Nat) (off : Offset) (s : State) : Host.Outcome State Fault Refusal :=
  match tokenGuard (some coding) s with
  | some r => .refused r
  | none => .next (s.runMatch n off.toNat)

/-- LIT (R99). -/
def execLit (b : Byte) (s : State) : Host.Outcome State Fault Refusal :=
  match tokenGuard none s with
  | some r => .refused r
  | none => .next (s.putLiteral b)

/-- MATCH.MIO (R100; R101: length nibble + 3). -/
def execMatchMio (nib : Nibble) (off : Offset) (s : State) : Host.Outcome State Fault Refusal :=
  doMatch .mio (nib.toNat + 3) off s

/-- MATCH.YAY.S (R100; R101: length nibble + 2 for a nibble in 1..15). -/
def execMatchYayS (nib : Nibble) (off : Offset) (s : State) : Host.Outcome State Fault Refusal :=
  if nib.toNat < 1 then .refused .illFormedToken else doMatch .yay (nib.toNat + 2) off s

/-- MATCH.YAY.L (R100; R101: length E + 18). -/
def execMatchYayL (off : Offset) (escape : Byte) (s : State) : Host.Outcome State Fault Refusal :=
  doMatch .yay (escape.toNat + 18) off s

/-- MATCH.RVL.S (R100; R101: length nibble + 1 for a nibble in 2..15). -/
def execMatchRvlS (nib : Nibble) (off : Offset) (s : State) : Host.Outcome State Fault Refusal :=
  if nib.toNat < 2 then .refused .illFormedToken else doMatch .rvl (nib.toNat + 1) off s

/-- MATCH.RVL.M (R100; R101: length E + 17). -/
def execMatchRvlM (off : Offset) (escape : Byte) (s : State) : Host.Outcome State Fault Refusal :=
  doMatch .rvl (escape.toNat + 17) off s

/-- MATCH.RVL.L (R100; R101: length X + 273). -/
def execMatchRvlL (off : Offset) (extra : Half) (s : State) : Host.Outcome State Fault Refusal :=
  doMatch .rvl (extra.toNat + 273) off s

end Sys2Proof.Machine
end

