-- ==== Sys2Proof/Machine/Dispatch.lean ====
section
/-! DEFINITION. The dispatch of an instruction to its meaning, one arm for each constructor of Instr. -/

namespace Sys2Proof.Machine

-- One direct call of a meaning per arm, in the order of spec/opcode_table.json.
def exec (i : Instr) (s : State) : Host.Outcome State Fault Refusal :=
  match i with
  | .clear variant => Sys2Proof.Machine.execClear variant s
  | .encodeMio0 => Sys2Proof.Machine.execEncodeMio0 s
  | .encodeSmsr00 => Sys2Proof.Machine.execEncodeSmsr00 s
  | .encodeYay0 => Sys2Proof.Machine.execEncodeYay0 s
  | .encodeYaz0 => Sys2Proof.Machine.execEncodeYaz0 s
  | .encodeRvl0 => Sys2Proof.Machine.execEncodeRvl0 s
  | .decodeMio0 => Sys2Proof.Machine.execDecodeMio0 s
  | .decodeSmsr00 => Sys2Proof.Machine.execDecodeSmsr00 s
  | .decodeYay0 => Sys2Proof.Machine.execDecodeYay0 s
  | .decodeYaz0 => Sys2Proof.Machine.execDecodeYaz0 s
  | .decodeRvl0 => Sys2Proof.Machine.execDecodeRvl0 s
  | .lit b => Sys2Proof.Machine.execLit b s
  | .matchMio nib off => Sys2Proof.Machine.execMatchMio nib off s
  | .matchYayS nib off => Sys2Proof.Machine.execMatchYayS nib off s
  | .matchYayL off escape => Sys2Proof.Machine.execMatchYayL off escape s
  | .matchRvlS nib off => Sys2Proof.Machine.execMatchRvlS nib off s
  | .matchRvlM off escape => Sys2Proof.Machine.execMatchRvlM off escape s
  | .matchRvlL off extra => Sys2Proof.Machine.execMatchRvlL off extra s

end Sys2Proof.Machine
end

