-- ==== Sys2Proof/Machine/Engine.lean ====
section
/-! DEFINITION. The engine's step (spec/10_state.md R19, spec/70_reset_and_hazards.md R145): nothing while IDLE (R134); one
round of ENCODE_TOKENS or the end of ENCODE while RUN_ENCODE; one flag word, one token or the completion while RUN_DECODE
(spec/44_decoder.md R96). And the run of the engine alone to the end of the command (R115). -/

namespace Sys2Proof.Machine

/-- The engine's step while RUN_ENCODE (R76, R112): a round while c < L, then the end. -/
def encodeStep (s : State) : Host.Outcome State Fault Refusal :=
  if s.regionsLegal = false then .refused .engineOutsideRegions
  else if s.enc.c < s.latSrcLen.toNat then .next (settle (encodeRound s))
  else .next (settle (finishEncode s))

/-- The engine's step while RUN_DECODE (R96): COMPLETE once the output is full (R104), the next flag word where the
current one is used up (R97), and otherwise the next token: its reads, then its meaning. A read past a limit ends the
command (R94, R122), with the state as the last completed token left it (R123). What the cursors and the flag word hold
after an error is unspecified (R25): a failed read leaves them as before the token, a failed CHECK_MATCH as after its reads
(DESIGN CHOICE, notes/assumptions/26.md). -/
def decodeStep (s : State) : Host.Outcome State Fault Refusal :=
  if (s.inputFits && s.outputFits) = false then .refused .engineOutsideRegions
  else if s.dec.n ≤ s.dec.o then .next (s.complete s.dec.n)
  else
    match decoderState s with
    | .readFlagWord =>
      match readFlagWord s with
      | .error e => .next (s.errorEntry e)
      | .ok t => .next t
    | .consumeBit =>
      match fetchToken s with
      | .error e => .next (s.errorEntry e)
      | .ok (i, t) => exec i t

/-- The engine's step. -/
def engineStep (s : State) : Host.Outcome State Fault Refusal :=
  match s.phase with
  | .idle => .next s
  | .runEncode => encodeStep s
  | .runDecode => decodeStep s

/-- The engine alone, for at most `fuel` steps, until the command ends. -/
def runEngine : Nat → State → State
  | 0, s => s
  | fuel + 1, s =>
    match s.phase with
    | .idle => s
    | _ =>
      match engineStep s with
      | .next t => runEngine fuel t
      | .fault _ => s
      | .refused _ => s

/-- Enough steps for the running command to end (R145): each round of the encoder advances c, each token of the decoder
advances o and needs at most one flag word. -/
def engineFuel (s : State) : Nat :=
  match s.phase with
  | .idle => 0
  | .runEncode => s.latSrcLen.toNat - s.enc.c + 1
  | .runDecode => 2 * (s.dec.n - s.dec.o) + 2

/-- The state in which the running command ends if the host leaves the engine alone (R115). -/
def State.finished (s : State) : State := runEngine (engineFuel s) s

/-- What a command word does from its CMD write to its end, the host leaving the engine alone (R115). -/
def State.runCommand (w : Word) (s : State) : State := (s.writeCmd w).finished

end Sys2Proof.Machine
end

