-- ==== Sys2Proof/Machine/HostBus.lean ====
section
/-! DEFINITION. The host's operations (spec/45_commands.md R116): register reads and writes (spec/10_state.md R8,
spec/20_memory.md R34), accesses to system memory (spec/70_reset_and_hazards.md R139), POLL (spec/30_encoding.md R58) and
the platform's reset (R135, R136); and one step of the machine, in which the host's next operation, if it has one, goes
before the engine (notes/assumptions/5.md). -/

namespace Sys2Proof.Machine

/-- A value read is handed to the host. -/
def State.deliver (v : Word) (s : State) : State := { s with readData := v }

/-- A read whose value the spec leaves open hands over a free value (R34). -/
def State.deliverFree (s : State) : State :=
  { s with readData := Config.freeWord s.fresh, fresh := s.fresh + 1 }

/-- A draw between the last value seen and the value at the command's end (R142). -/
def counterDraw (free seen final : Word) : Word :=
  BitVec.ofNat 32 (seen.toNat + free.toNat % (final.toNat - seen.toNat + 1))

/-- A read of LIT_COUNT while BUSY = 1 (R142). -/
def State.drawLitCount (s : State) : State :=
  let v := counterDraw (Config.freeWord s.fresh) s.litSeen s.finished.litCount
  { s with readData := v, litSeen := v, fresh := s.fresh + 1 }

/-- A read of MATCH_COUNT while BUSY = 1 (R142). -/
def State.drawMatchCount (s : State) : State :=
  let v := counterDraw (Config.freeWord s.fresh) s.matchSeen s.finished.matchCount
  { s with readData := v, matchSeen := v, fresh := s.fresh + 1 }

/-- A register read at a window offset (R8, R34, R142). -/
def State.readRegister (off : BitVec 8) (width : AccessWidth) (s : State) : State :=
  if alignedWord width off = false then s.deliverFree
  else if s.busy ∧ off = 0x20 then s.drawLitCount
  else if s.busy ∧ off = 0x24 then s.drawMatchCount
  else s.deliver (s.register off)

/-- The host's register read. -/
def hostRead (addr : Word) (width : AccessWidth) (s : State) : Host.Outcome State Fault Refusal :=
  match regOffset? s.params addr with
  | none => .fault (.noRegister addr)
  | some off => .next (s.readRegister off width)

/-- A word written to CMD (R9): the instruction it encodes is executed; a word that encodes none starts a command that
START_CHECKS ends with BadCommand (R47, R111). -/
def commandWrite (w : Word) (s : State) : Host.Outcome State Fault Refusal :=
  match decodeCommand w with
  | .ok i => exec i s
  | .error _ => .next (s.writeCmd w)

/-- The host's register write (R8, R34): an access that is not an aligned 32-bit one is ignored. -/
def hostWrite (addr : Word) (width : AccessWidth) (v : Word) (s : State) : Host.Outcome State Fault Refusal :=
  match regOffset? s.params addr with
  | none => .fault (.noRegister addr)
  | some off =>
    if alignedWord width off = false then .next s
    else if off = 0 then commandWrite v s
    else .next (s.setRegister off v)

/-- The address lies in the running command's input region. -/
def State.inInput (s : State) (addr : Word) : Bool := inRegion s.latSrcAddr s.latSrcLen addr

/-- The address lies in the running command's output region. -/
def State.inOutput (s : State) (addr : Word) : Bool := inRegion s.latDstAddr s.latDstCap addr

/-- The host's write of a byte of system memory (R139): not into either region while BUSY = 1. -/
def hostMemWrite (addr : Word) (v : Byte) (s : State) : Host.Outcome State Fault Refusal :=
  if s.busy && (s.inInput addr || s.inOutput addr) then .refused (.hostRace addr)
  else .next { s with mem := Memory.write s.mem addr.toNat v }

/-- The host's read of a byte of system memory (R139): not of the output region while BUSY = 1. Once the command has ended
the engine's bytes are seen at once, also before a STATUS read has shown BUSY = 0, where R42 and R142 order nothing (DESIGN
CHOICE, notes/assumptions/27.md). -/
def hostMemRead (addr : Word) (s : State) : Host.Outcome State Fault Refusal :=
  if s.busy && s.inOutput addr then .refused (.hostRace addr)
  else .next (s.deliver ((Memory.read s.mem addr.toNat).setWidth 32))

/-- How many bytes of the latched output region lie in the address space: all of them in a running command (R37). -/
def State.outputBytes (s : State) : Nat := min s.latDstCap.toNat (Config.addressSpace - s.latDstAddr.toNat)

/-- What a reset leaves in memory (R135, R136): unchanged, but for the output region of a running command, each byte of
which takes a free value. -/
def State.resetMemory (s : State) : State :=
  if s.busy then
    { s with
      mem := Memory.writeFree s.mem s.latDstAddr.toNat s.fresh s.outputBytes
      fresh := s.fresh + s.outputBytes }
  else s

/-- The platform's reset (R135, R136, R137): the block is as `State.reset` has it; memory, the parameters and what belongs
to the host stay. -/
def State.applyReset (s : State) : State :=
  let s' := s.resetMemory
  { State.reset with
    mem := s'.mem
    params := s'.params
    host := s'.host
    readData := s'.readData
    fresh := s'.fresh }

/-- One operation of the host, already taken from its script, other than POLL and the pass. -/
def hostMove (op : HostOp) (s : State) : Host.Outcome State Fault Refusal :=
  match op with
  | .write addr width v => hostWrite addr width v s
  | .read addr width => hostRead addr width s
  | .memWrite addr v => hostMemWrite addr v s
  | .memRead addr => hostMemRead addr s
  | .reset => .next s.applyReset
  | .poll => .next (s.deliver s.status)
  | .pass => engineStep s

/-- One step of the machine (notes/assumptions/5.md). Without a host operation the engine steps. POLL reads STATUS; while it
shows BUSY = 1 the operation stays and the engine steps, so that the poll loop lets the engine go on (R145). -/
def machineStep (s : State) : Host.Outcome State Fault Refusal :=
  match s.host with
  | [] => engineStep s
  | .poll :: rest =>
    if s.busy then engineStep (s.deliver s.status) else hostMove .poll { s with host := rest }
  | op :: rest => hostMove op { s with host := rest }

/-! ### Host programs (R58) -/

/-- `WR <REG>, <value>`: a 32-bit write at a register's offset. -/
def opWR (p : Params) (off : BitVec 8) (v : Word) : HostOp := .write (regAddress p off) .word v

/-- `RD <REG>`: a 32-bit read at a register's offset. -/
def opRD (p : Params) (off : BitVec 8) : HostOp := .read (regAddress p off) .word

/-- `RUN <command>`: `WR CMD, <command word>; POLL`. -/
def opRUN (p : Params) (w : Word) : List HostOp := [opWR p 0 w, .poll]

end Sys2Proof.Machine
end

