-- ==== Sys2Proof/Machine/Placement.lean ====
section
/-! DEFINITION. Placing one instruction where the next step finds it (notes/assumptions/16.md). A command word is a CMD
write at the head of the host's script. A token is the next token of a running DECODE. -/

namespace Sys2Proof.Machine

/-- The state whose next step is the host's write of a word to CMD. -/
def State.placeCommand (w : Word) (s : State) : State := { s with host := opWR s.params 0 w :: s.host }

/-- The variant under whose DECODE a table word's token is placed: Groups for the MIO coding, Stream for the RVL coding. -/
def placeVariant : Coding → Variant
  | .mio => .smsr00
  | .yay => .yaz0
  | .rvl => .rvl0

/-- Where the placed container and output begin, how long the container is, where its token stands, how many bytes of
output exist, and how many there will be: room for any back-reference and any match. -/
def placeSrcAddr : Word := 0x00000000
def placeSrcLen : Word := 20
def placeTokenAt : Nat := 16
def placeDstAddr : Word := 0x00010000
def placeOutput : Nat := 4096
def placeSize : Nat := 4096 + 65808

/-- The state whose next step is the engine's, in a running DECODE of the coding's variant, with the flag bit next in the
current flag word and the token's bytes next in its streams. -/
def State.placeToken (coding : Coding) (flag : Bool) (bytes : List Byte) (s : State) : State :=
  { s with
    status := statusBusy
    errInfo := 0
    outLen := 0
    phase := .runDecode
    variant := placeVariant coding
    latSrcAddr := placeSrcAddr
    latSrcLen := placeSrcLen
    latDstAddr := placeDstAddr
    latDstCap := BitVec.ofNat 32 placeSize
    dec :=
      { startDecoder (layoutOf (placeVariant coding)) placeSize 18 18 placeSrcLen.toNat with
        o := placeOutput
        word := if flag then 1 else 0
        left := 1 }
    mem := Memory.writeBytes s.mem (regionAddress placeSrcAddr placeTokenAt) bytes
    host := .pass :: s.host }

/-- A table word placed where the next step finds it (numbered as `decodeTableWord` numbers it). -/
def State.placeTableWord (nbits w : Nat) (s : State) : State :=
  if nbits = 32 then s.placeCommand (BitVec.ofNat 32 w)
  else s.placeToken (tableCoding nbits) (tableFlag nbits w) (tableBytes nbits w)

end Sys2Proof.Machine
end

