-- ==== Sys2Proof/Safety.lean ====
section
/-! DEFINITION. The terms the claims are stated in: the invariant of every reachable state, part by part; what a token
sequence expands to; and which states can start a command. -/

namespace Sys2Proof.Machine

/-! ### The invariant -/

/-- STATUS, ERR_INFO and OUT_LEN while IDLE: as reset or CLEAR leaves them (R110, R135), as a completed command does
(R114), or as an error of R121's table does (R122). -/
def IdleStatus (s : State) : Prop :=
  (s.status = 0 ∧ s.errInfo = 0 ∧ s.outLen = 0) ∨ (s.status = statusDone ∧ s.errInfo = 0) ∨
    ∃ e : ErrorCause, s.status = e.status ∧ s.errInfo = BitVec.ofNat 32 e.sub ∧ s.outLen = 0

/-- STATUS, ERR_INFO and OUT_LEN while a command runs (R108, R142). -/
def RunningStatus (s : State) : Prop := s.status = statusBusy ∧ s.errInfo = 0 ∧ s.outLen = 0

/-- STATUS agrees with the phase (R10, R15, R19). -/
structure StatusInv (s : State) : Prop where
  idle : s.phase = .idle → IdleStatus s
  running : s.phase ≠ .idle → RunningStatus s

/-- What START_CHECKS established of the latches of a running command (R37, R38, R111). -/
structure ContextInv (s : State) : Prop where
  nonempty : 1 ≤ s.latSrcLen.toNat
  bounded : s.latSrcLen.toNat ≤ Config.sizeMax
  legal : s.regionsLegal = true
  apart : regionsShare s.latSrcAddr s.latSrcLen s.latDstAddr s.latDstCap = false

/-- The token encoder between two rounds (R22, R49, R60, R83). -/
structure EncoderInv (s : State) : Prop where
  cursor : s.enc.c ≤ s.latSrcLen.toNat
  partialWord : s.enc.fbits < s.fw
  counted : s.enc.tokens = s.litCount.toNat + s.matchCount.toNat
  covered : s.enc.tokens ≤ s.enc.c
  described : s.fw * s.flags.length + s.enc.fbits = s.enc.tokens
  unusedBits : ∀ i, i < s.fw - s.enc.fbits → s.enc.facc.getLsbD i = false
  width : s.enc.facc.toNat < 2 ^ s.fw ∧ ∀ w ∈ s.flags, w.toNat < 2 ^ s.fw
  literalBytes : s.litCount.toNat ≤ s.bytes.length
  matchEntries : s.matchCount.toNat ≤ s.dict.length
  capacities : s.flags.length ≤ s.params.flagsCap.toNat ∧ s.dict.length ≤ s.params.dictCap.toNat ∧
    s.bytes.length ≤ s.params.bytesCap.toNat

/-- The decoder between two tokens (R24, R93, R94). -/
structure DecoderInv (s : State) : Prop where
  size : 1 ≤ s.dec.n ∧ s.dec.n ≤ Config.sizeMax
  fits : s.dec.n ≤ s.latDstCap.toNat
  output : s.dec.o ≤ s.dec.n
  flagCursor : s.dec.fp ≤ s.dec.fpLim ∧ s.dec.fpLim ≤ s.latSrcLen.toNat
  dictCursor : s.dec.dp ≤ s.dec.dpLim ∧ s.dec.dpLim ≤ s.latSrcLen.toNat
  byteCursor : s.dec.bp ≤ s.dec.bpLim ∧ s.dec.bpLim ≤ s.latSrcLen.toNat
  flagBits : s.dec.left ≤ s.fw ∧ s.dec.word.toNat < 2 ^ s.fw
  counted : s.litCount.toNat + s.matchCount.toNat ≤ s.dec.o

/-- The match finder's SEED and SKIP (R23, R73). -/
structure FinderInv (s : State) : Prop where
  seed : s.seed.length = 3
  skip : s.skip.length = 256
  entries : ∀ k ∈ s.skip, 1 ≤ k ∧ k ≤ 3

/-- The buffers exist only during ENCODE (R21, R62). -/
def BuffersEmpty (s : State) : Prop := s.flags = [] ∧ s.dict = [] ∧ s.bytes = []

/-- The invariant of the machine. -/
structure Inv (s : State) : Prop where
  memory : Memory.wf s.mem = true
  params : s.params.wf = true
  status : StatusInv s
  context : s.phase ≠ .idle → ContextInv s
  encoder : s.phase = .runEncode → EncoderInv s
  decoder : s.phase = .runDecode → DecoderInv s
  buffers : s.phase ≠ .runEncode → BuffersEmpty s
  finder : FinderInv s

/-- What reads of the counters have returned in the running command is at most what the counters will hold at its end
(R142). -/
def DrawsInRange (s : State) : Prop :=
  s.phase ≠ .idle →
    s.litSeen.toNat ≤ s.finished.litCount.toNat ∧ s.matchSeen.toNat ≤ s.finished.matchCount.toNat

/-! ### Commands and tokens that can go ahead -/

/-- The region registers pass the checks of R111 that concern them: no region wraps (R37), they share no byte (R38; the
input region is not empty), and the input size is in 1..SIZE_MAX. -/
structure RegionsStart (s : State) : Prop where
  nonempty : 1 ≤ s.srcLen.toNat
  bounded : s.srcLen.toNat ≤ Config.sizeMax
  input : s.srcAddr.toNat + s.srcLen.toNat ≤ Config.addressSpace
  output : s.dstAddr.toNat + s.dstCap.toNat ≤ Config.addressSpace
  apart : s.dstCap.toNat = 0 ∨ s.srcAddr.toNat + s.srcLen.toNat ≤ s.dstAddr.toNat ∨
    s.dstAddr.toNat + s.dstCap.toNat ≤ s.srcAddr.toNat

/-- The header field at index `k` of the container the input registers name (R48). -/
def inputField (s : State) (k : Nat) : Nat :=
  bigEndian ((List.range 4).map fun j => Memory.read s.mem (s.srcAddr.toNat + (k + j)))

/-- The decoded size in the header of the container the input registers name, for a variant (R48). -/
def inputSizeField (v : Variant) (s : State) : Nat := inputField s (sizeFieldAt (layoutOf v))

/-- The header of the container the input registers name passes DECODE_HEADER for a variant (R93). -/
structure HeaderPasses (v : Variant) (s : State) : Prop where
  whole : 16 ≤ s.srcLen.toNat
  magic : inputField s 0 = (magicOf v).toNat
  nonempty : 1 ≤ inputSizeField v s
  bounded : inputSizeField v s ≤ Config.sizeMax
  tables : layoutOf v = .tables → 16 ≤ inputField s 8 ∧ inputField s 8 ≤ inputField s 12 ∧ inputField s 12 ≤ s.srcLen.toNat
  groups : layoutOf v = .groups → 16 ≤ inputField s 12 ∧ inputField s 12 ≤ s.srcLen.toNat
  fits : inputSizeField v s ≤ s.dstCap.toNat

/-- A token can execute (R96): a DECODE runs, its output region holds N bytes, and the output is not full. -/
structure TokenReady (s : State) : Prop where
  running : s.phase = .runDecode
  legal : regionLegal s.latDstAddr s.latDstCap = true
  fits : s.dec.n ≤ s.latDstCap.toNat
  room : s.dec.o < s.dec.n

/-- The engine executes a DECODE whose output is not full, and the host leaves it the turn (R28, R37, R96). -/
structure DecodingReady (s : State) : Prop where
  running : s.phase = .runDecode
  quiet : s.host = []
  input : s.inputFits = true
  output : s.outputFits = true
  room : s.dec.o < s.dec.n

/-- A function applied to the state of an outcome that has one. -/
def onNext (f : State → State) : Host.Outcome State Fault Refusal → Host.Outcome State Fault Refusal
  | .next s => .next (f s)
  | .fault e => .fault e
  | .refused r => .refused r

/-- The match token `i`, of a coding, a length and an offset field, completes in every state that can execute it: COPY,
`o` advanced by the length, MATCH_COUNT one more, nothing else changed (R100, R103). -/
def MatchCompletes (i : Instr) (coding : Coding) (n : Nat) (off : Offset) : Prop :=
  ∀ s : State, TokenReady s → s.coding = coding → off.toNat < s.dec.o → s.dec.o + n ≤ s.dec.n →
    exec i s = .next
      { s with
        mem := copyBytes s.mem s.latDstAddr.toNat s.dec.o off.toNat n
        dec := { s.dec with o := s.dec.o + n }
        matchCount := s.matchCount + 1 }

/-- The match token `i`, of a coding, a length and an offset field, ends the command with the error of the first check of
CHECK_MATCH that fails (R102). -/
def MatchFails (i : Instr) (coding : Coding) (n : Nat) (off : Offset) : Prop :=
  ∀ s : State, TokenReady s → s.coding = coding →
    (s.dec.o ≤ off.toNat → exec i s = .next (s.errorEntry .beforeStart)) ∧
    (off.toNat < s.dec.o → s.dec.n < s.dec.o + n → exec i s = .next (s.errorEntry .pastDecodedSize))

/-! ### What tokens mean -/

/-- The token an instruction is (R58), its distance one more than its offset field; a command is none. -/
def tokenOf : Instr → Option Token
  | .clear _ | .encodeMio0 | .encodeSmsr00 | .encodeYay0 | .encodeYaz0 | .encodeRvl0 => none
  | .decodeMio0 | .decodeSmsr00 | .decodeYay0 | .decodeYaz0 | .decodeRvl0 => none
  | .lit b => some (.literal b)
  | .matchMio nib off => some (.copy (nib.toNat + 3) (off.toNat + 1))
  | .matchYayS nib off => some (.copy (nib.toNat + 2) (off.toNat + 1))
  | .matchYayL off e => some (.copy (e.toNat + 18) (off.toNat + 1))
  | .matchRvlS nib off => some (.copy (nib.toNat + 1) (off.toNat + 1))
  | .matchRvlM off e => some (.copy (e.toNat + 17) (off.toNat + 1))
  | .matchRvlL off x => some (.copy (x.toNat + 273) (off.toNat + 1))

/-- The instruction of a token under a coding (R79, R80). -/
def tokenInstr (coding : Coding) : Token → Instr
  | .literal b => .lit b
  | .copy n d => matchInstr coding n d

/-- The longest match a coding can encode (R50, R51, R52). -/
def codingMax : Coding → Nat
  | .mio => 18
  | .yay => 273
  | .rvl => 65808

/-- The dictionary entries of a token sequence, in order (R80). -/
def dictOf (coding : Coding) (ts : List Token) : List Half := ts.flatMap fun t => (tokenCode (tokenInstr coding t)).dict

/-- The bytes of a token sequence, in order (R79, R80). -/
def bytesOf (coding : Coding) (ts : List Token) : List Byte := ts.flatMap fun t => (tokenCode (tokenInstr coding t)).bytes

/-- How many tokens of a sequence are literals. -/
def literalsIn : List Token → Nat
  | [] => 0
  | .literal _ :: rest => literalsIn rest + 1
  | .copy _ _ :: rest => literalsIn rest

/-- How many tokens of a sequence are matches. -/
def copiesIn : List Token → Nat
  | [] => 0
  | .literal _ :: rest => copiesIn rest
  | .copy _ _ :: rest => copiesIn rest + 1

/-- The flag words of a token sequence (R49, R81, R82), after `count` tokens of a group whose flag bits are in `acc`. -/
def flagWordsFrom (fw : Nat) (acc : Word) (count : Nat) : List Token → List Word
  | [] => if count = 0 then [] else [acc]
  | t :: rest =>
    let acc' :=
      match t with
      | .literal _ => acc ||| flagMask fw count
      | .copy _ _ => acc
    if count + 1 = fw then acc' :: flagWordsFrom fw 0 0 rest else flagWordsFrom fw acc' (count + 1) rest

/-! ### What the encoder's appends do -/

/-- FLAGBIT (R81) on the FLAGS stream, the accumulator and the bit count: the token's bit, 1 for a literal, goes to bit
FW-1-fbits, and a full word to FLAGS. -/
def recordFlag (fw : Nat) (p : List Word × Word × Nat) (t : Token) : List Word × Word × Nat :=
  let acc : Word :=
    match t with
    | .literal _ => p.2.1 ||| (1#32 <<< (fw - 1 - p.2.2))
    | .copy _ _ => p.2.1
  if p.2.2 + 1 = fw then (p.1 ++ [acc], 0, 0) else (p.1, acc, p.2.2 + 1)

/-- A running ENCODE after one more token that fits (R76, R79, R80, R81). -/
def afterToken (s : State) (t : Token) : State :=
  let f := recordFlag s.fw (s.flags, s.enc.facc, s.enc.fbits) t
  { s with
    flags := f.1
    dict := s.dict ++ dictOf s.coding [t]
    bytes := s.bytes ++ bytesOf s.coding [t]
    enc := ⟨s.enc.c + t.span, f.2.1, f.2.2, s.enc.tokens + 1⟩
    litCount := s.litCount + BitVec.ofNat 32 (literalsIn [t])
    matchCount := s.matchCount + BitVec.ofNat 32 (copiesIn [t]) }

/-- The first append of a token that raises, in the order of R79, R80 and R81: its dictionary entries, its byte, the flush
of its flag word (R60, R124 item 3). -/
def tokenRaises (s : State) (t : Token) : Option ErrorCause :=
  if s.params.dictCap.toNat < s.dict.length + (dictOf s.coding [t]).length then some .dictFull
  else if s.params.bytesCap.toNat < s.bytes.length + (bytesOf s.coding [t]).length then some .bytesFull
  else if s.enc.fbits + 1 = s.fw ∧ s.params.flagsCap.toNat ≤ s.flags.length then some .flagsFull
  else none

/-- The first token of a round that raises: its cause, and the tokens of the round completed before it (R124 item 3). -/
def roundRaises : State → List Token → Option (ErrorCause × List Token)
  | _, [] => none
  | s, t :: rest =>
    match tokenRaises s t with
    | some e => some (e, [])
    | none => (roundRaises (afterToken s t) rest).map fun p => (p.1, t :: p.2)

/-- A running ENCODE in state `s` has ended in `t` with the error `e`, after the tokens `completed` of its last step: the
error's registers (R122), nothing of the output written, and the counters of the completed tokens (R123). -/
structure EncodeEndedBy (e : ErrorCause) (completed : List Token) (s t : State) : Prop where
  status : t.status = BitVec.ofNat 32 (e.code * 256 + 4) ∧ t.errInfo = BitVec.ofNat 32 e.sub ∧ t.outLen = 0
  phase : t.phase = .idle
  buffers : BuffersEmpty t
  memory : t.mem = s.mem
  literals : t.litCount = s.litCount + BitVec.ofNat 32 (literalsIn completed)
  copies : t.matchCount = s.matchCount + BitVec.ofNat 32 (copiesIn completed)

/-- `n` bytes appended one at a time, each the one `d` back (R103). -/
def expandCopy (out : List Byte) (d : Nat) : Nat → List Byte
  | 0 => out
  | n + 1 => expandCopy (out ++ [out.getD (out.length - d) 0]) d n

/-- The output of a token sequence after an output so far (R99, R103). -/
def expandFrom (out : List Byte) : List Token → List Byte
  | [] => out
  | .literal b :: rest => expandFrom (out ++ [b]) rest
  | .copy n d :: rest => expandFrom (expandCopy out d n) rest

/-- The first `len` bytes of a source. -/
def sourceBytes (src : Nat → Byte) (len : Nat) : List Byte := (List.range len).map src

end Sys2Proof.Machine
end

