-- ==== Sys2Proof/Certificates/Slice0/Obligations.lean ====
section
/-! DEFINITION. The statements for the provers, from the numbered rules of spec/. -/

open Sys2Proof Sys2Proof.Machine

/-! ### Encodings (spec/30_encoding.md) -/

/-- R46, R50, R51, R52, R53: decoding the encoding of a well-formed instruction, under its coding, gives it back. -/
def Obligations.DecodeInvertsEncode : Prop :=
  ∀ (i : Instr) (coding : Coding), i.wf = true → (i.coding? = none ∨ i.coding? = some coding) →
    Sys2Proof.decode coding (Sys2Proof.encode i) = .ok i

/-- R46, R47, R53: whatever decodes is the encoding of the instruction it decodes to, which is well formed and of the
coding it was decoded under; no two encoded objects decode to one instruction. -/
def Obligations.EncodeInvertsDecode : Prop :=
  ∀ (coding : Coding) (c : Code) (i : Instr), Sys2Proof.decode coding c = .ok i →
    Sys2Proof.encode i = c ∧ i.wf = true ∧ (i.coding? = none ∨ i.coding? = some coding)

/-- Words written out from R46 and R50 to R52 decode to the instructions they stand for. -/
def Obligations.WrittenOutWordsDecode : Prop :=
  decodeCommand 0x00000070 = .ok (.clear 7) ∧
  decodeCommand 0x00000011 = .ok .encodeSmsr00 ∧
  decodeCommand 0x00000042 = .ok .decodeRvl0 ∧
  decodeCommand 0x00000053 = .error .reservedOp ∧
  decodeCommand 0x00000100 = .error .reservedBits ∧
  decodeCommand 0x00000052 = .error .reservedVariant ∧
  decodeInline .mio true [0x41, 0x99] = .ok (.lit 0x41, [0x99]) ∧
  decodeInline .mio false [0x20, 0x06] = .ok (.matchMio 2 6, []) ∧
  decodeInline .yay false [0x30, 0x06] = .ok (.matchYayS 3 6, []) ∧
  decodeInline .yay false [0x00, 0x00, 0x02] = .ok (.matchYayL 0 2, []) ∧
  decodeInline .rvl false [0x40, 0x06] = .ok (.matchRvlS 4 6, []) ∧
  decodeInline .rvl false [0x0F, 0xFF, 0x03] = .ok (.matchRvlM 0xFFF 3, []) ∧
  decodeInline .rvl false [0x10, 0x00, 0x00, 0x1A] = .ok (.matchRvlL 0 0x1A, [])

/-- R53's table: what each nibble of each coding means, as the length of the token it decodes to. -/
def Obligations.NibbleTable : Prop :=
  (∀ (d : Half) (x : Nat), tokenOf (matchOf .mio d x) = some (.copy (d.toNat / 4096 + 3) (d.toNat % 4096 + 1))) ∧
  (∀ (d : Half) (x : Nat), x < 256 → tokenOf (matchOf .yay d x) =
    some (.copy (if d.toNat / 4096 = 0 then x + 18 else d.toNat / 4096 + 2) (d.toNat % 4096 + 1))) ∧
  (∀ (d : Half) (x : Nat), x < (if d.toNat / 4096 = 0 then 256 else 65536) → tokenOf (matchOf .rvl d x) =
    some (.copy
      (if d.toNat / 4096 = 0 then x + 17 else if d.toNat / 4096 = 1 then x + 273 else d.toNat / 4096 + 1)
      (d.toNat % 4096 + 1)))

/-- R50, R51, R52: for every length a coding encodes and every distance, the match instruction built for them is well
formed, of that coding, and means exactly that length and distance. -/
def Obligations.CodingsRepresentEveryMatch : Prop :=
  ∀ (coding : Coding) (n d : Nat), 3 ≤ n → n ≤ codingMax coding → 1 ≤ d → d ≤ 4096 →
    (matchInstr coding n d).wf = true ∧ (matchInstr coding n d).coding? = some coding ∧
      tokenOf (matchInstr coding n d) = some (.copy n d)

/-! ### Starting a command (spec/45_commands.md) -/

/-- R110: CLEAR zeroes STATUS, ERR_INFO, OUT_LEN and the counters and changes nothing else, whatever its VARIANT field;
while BUSY = 1 it is ignored; a word with OP = 0 and a reserved bit set is BadCommand 3. That the internal state R25 leaves
unspecified in IDLE keeps its values after that BadCommand is the model's choice (notes/assumptions/26.md, DESIGN CHOICE; for
a reserved VARIANT, notes/assumptions/7.md). -/
def Obligations.ClearResetsTheStatusRegisters : Prop :=
  (∀ (variant : Nibble) (s : State), s.busy = false →
    exec (.clear variant) s =
      .next { s with status := 0, errInfo := 0, outLen := 0, litCount := 0, matchCount := 0 }) ∧
  (∀ (variant : Nibble) (s : State), s.busy = true → exec (.clear variant) s = .next s) ∧
  (∀ (variant : Nibble), decodeCommand (BitVec.ofNat 32 (16 * variant.toNat)) = .ok (.clear variant)) ∧
  (∀ (w : Word) (s : State), s.busy = false → w.toNat % 16 = 0 → w.toNat / 256 ≠ 0 →
    commandWrite w s = .next ((s.beginCommand w).errorEntry .reservedBits))

/-- R109: a write of any word to CMD while BUSY = 1 changes nothing, whether the word is an instruction or not; as a step,
only the host's script moves on. -/
def Obligations.BusyCommandWriteIsIgnored : Prop :=
  ∀ (w : Word) (s : State) (rest : List HostOp), s.busy = true →
    commandWrite w s = .next s ∧
    (s.host = opWR s.params 0 w :: rest → step s = .next { s with host := rest })

/-- R108, R112, R75: while BUSY = 0 and with legal regions, ENCODE starts: STATUS shows BUSY alone, the counters, ERR_INFO
and OUT_LEN are 0, the region registers are latched, the buffers are empty, the encoder is at its start, and nothing else
changes. -/
def Obligations.EncodeCommandsStart : Prop :=
  ∀ (i : Instr) (v : Variant) (s : State),
    (i, v) ∈ [(Instr.encodeMio0, Variant.mio0), (.encodeSmsr00, .smsr00), (.encodeYay0, .yay0), (.encodeYaz0, .yaz0),
      (.encodeRvl0, .rvl0)] →
    s.busy = false → RegionsStart s →
    exec i s = .next
      { s with
        status := 0x00000001, errInfo := 0, outLen := 0, litCount := 0, matchCount := 0, litSeen := 0, matchSeen := 0
        latSrcAddr := s.srcAddr, latSrcLen := s.srcLen, latDstAddr := s.dstAddr, latDstCap := s.dstCap
        variant := v, phase := .runEncode, flags := [], dict := [], bytes := [], enc := ⟨0, 0, 0, 0⟩ }

/-- R108, R113, R93, R94, R95: while BUSY = 0, with legal regions and a header that passes, DECODE starts: STATUS shows
BUSY alone, the counters, ERR_INFO and OUT_LEN are 0, the region registers are latched, N is the header's decoded size,
the cursors of the layout stand at the start of their ranges, no flag bit is left, and nothing else changes. The zeros of
the cursors and limits that the layout does not use (dp and its limit in Groups; dp, bp and their limits in Stream), and of
the current flag word, are no rule's: they are the model's choice (notes/assumptions/24.md, DESIGN CHOICE). -/
def Obligations.DecodeCommandsStart : Prop :=
  ∀ (i : Instr) (v : Variant) (s : State),
    (i, v) ∈ [(Instr.decodeMio0, Variant.mio0), (.decodeSmsr00, .smsr00), (.decodeYay0, .yay0), (.decodeYaz0, .yaz0),
      (.decodeRvl0, .rvl0)] →
    s.busy = false → RegionsStart s → HeaderPasses v s →
    exec i s = .next
      { s with
        status := 0x00000001, errInfo := 0, outLen := 0, litCount := 0, matchCount := 0, litSeen := 0, matchSeen := 0
        latSrcAddr := s.srcAddr, latSrcLen := s.srcLen, latDstAddr := s.dstAddr, latDstCap := s.dstCap
        variant := v, phase := .runDecode
        dec :=
          match layoutOf v with
          | .tables =>
            { n := inputField s 4, o := 0, fp := 16, fpLim := inputField s 8, dp := inputField s 8,
              dpLim := inputField s 12, bp := inputField s 12, bpLim := s.srcLen.toNat, word := 0, left := 0 }
          | .groups =>
            { n := inputField s 8, o := 0, fp := 16, fpLim := inputField s 12, dp := 0, dpLim := 0,
              bp := inputField s 12, bpLim := s.srcLen.toNat, word := 0, left := 0 }
          | .stream =>
            { n := inputField s 4, o := 0, fp := 16, fpLim := s.srcLen.toNat, dp := 0, dpLim := 0, bp := 0, bpLim := 0,
              word := 0, left := 0 } }

/-- R111, R124: the start checks and their order, for a word that is not CLEAR written while BUSY = 0: the first condition
that holds decides the error, and the command ends by it. That the internal state then keeps its values is the model's
choice (notes/assumptions/26.md). -/
def Obligations.StartChecksInOrder : Prop :=
  ∀ (w : Word) (s : State), s.busy = false → (w.toNat % 16 ≠ 0 ∨ w.toNat / 256 ≠ 0) →
    let ends (e : ErrorCause) : Prop := commandWrite w s = .next ((s.beginCommand w).errorEntry e)
    if 3 ≤ w.toNat % 16 then ends .reservedOp
    else if w.toNat / 256 ≠ 0 then ends .reservedBits
    else if 5 ≤ w.toNat / 16 % 16 then ends .reservedVariant
    else if 0x100000000 < s.srcAddr.toNat + s.srcLen.toNat then ends .inputWraps
    else if 0x100000000 < s.dstAddr.toNat + s.dstCap.toNat then ends .outputWraps
    else if 0 < s.srcLen.toNat ∧ 0 < s.dstCap.toNat ∧ s.srcAddr.toNat < s.dstAddr.toNat + s.dstCap.toNat ∧
        s.dstAddr.toNat < s.srcAddr.toNat + s.srcLen.toNat then ends .regionsOverlap
    else if s.srcLen.toNat = 0 ∨ 0x3FFFFFFF < s.srcLen.toNat then ends .inputSize
    else (s.beginCommand w).startChecks w = none

/-- R93, R124: DECODE_HEADER's checks and their order, for a DECODE that passes the start checks: the first that fails
decides the error, and the command ends by it. That the internal state then keeps its values is the model's choice
(notes/assumptions/26.md). -/
def Obligations.HeaderChecksInOrder : Prop :=
  ∀ (v : Variant) (s : State), s.busy = false → RegionsStart s →
    let ends (e : ErrorCause) : Prop :=
      exec (Instr.decodeOf v) s = .next ((s.beginCommand (commandWord 2 (codeOfVariant v))).errorEntry e)
    let n := inputSizeField v s
    if s.srcLen.toNat < 16 then ends .shortContainer
    else if inputField s 0 ≠ (magicOf v).toNat then ends .badMagic
    else if n = 0 ∨ 0x3FFFFFFF < n then ends .decodedSize
    else if layoutOf v = .tables ∧
        ¬(16 ≤ inputField s 8 ∧ inputField s 8 ≤ inputField s 12 ∧ inputField s 12 ≤ s.srcLen.toNat) then
      ends .badAuxOffset
    else if layoutOf v = .groups ∧ ¬(16 ≤ inputField s 12 ∧ inputField s 12 ≤ s.srcLen.toNat) then ends .badAuxOffset
    else if s.dstCap.toNat < n then ends .decodedTooBig
    else HeaderPasses v s

/-- R108, R110, R111: what exec of a command word, which is the START of the command, leaves alone: the region registers,
the parameters, the match finder's state, what belongs to the host; the encoder unless it is an ENCODE, the decoder unless
it is a DECODE; and memory, because CLEAR writes none, the start checks access none, and the engine's later steps, not
exec, do the work that writes the output region (that division into steps is the model's choice, notes/assumptions/4.md,
DESIGN CHOICE). -/
def Obligations.CommandFrame : Prop :=
  ∀ (i : Instr) (s t : State), tokenOf i = none → exec i s = .next t →
    t.mem = s.mem ∧ t.srcAddr = s.srcAddr ∧ t.srcLen = s.srcLen ∧ t.dstAddr = s.dstAddr ∧ t.dstCap = s.dstCap ∧
      t.params = s.params ∧ t.seed = s.seed ∧ t.skip = s.skip ∧ t.host = s.host ∧ t.readData = s.readData ∧
      t.fresh = s.fresh ∧
      ((∀ v, i ≠ Instr.encodeOf v) → t.enc = s.enc) ∧ ((∀ v, i ≠ Instr.decodeOf v) → t.dec = s.dec)

/-! ### Tokens (spec/44_decoder.md) -/

/-- R99: a literal that can execute writes its byte at DST[o] and adds 1 to o and to LIT_COUNT; nothing else changes. -/
def Obligations.LiteralTokenCompletes : Prop :=
  ∀ (b : Byte) (s : State), TokenReady s →
    exec (.lit b) s = .next
      { s with
        mem := Memory.write s.mem (s.latDstAddr.toNat + s.dec.o) b
        dec := { s.dec with o := s.dec.o + 1 }
        litCount := s.litCount + 1 }

/-- R100, R101, R102: each match form, in a state that can execute it, whose back-reference and length pass CHECK_MATCH,
copies the length its nibble, escape byte or extra halfword gives; nothing else changes. -/
def Obligations.MatchTokensComplete : Prop :=
  (∀ nib off, MatchCompletes (.matchMio nib off) .mio (nib.toNat + 3) off) ∧
  (∀ nib off, 1 ≤ nib.toNat → MatchCompletes (.matchYayS nib off) .yay (nib.toNat + 2) off) ∧
  (∀ off (e : Byte), MatchCompletes (.matchYayL off e) .yay (e.toNat + 18) off) ∧
  (∀ nib off, 2 ≤ nib.toNat → MatchCompletes (.matchRvlS nib off) .rvl (nib.toNat + 1) off) ∧
  (∀ off (e : Byte), MatchCompletes (.matchRvlM off e) .rvl (e.toNat + 17) off) ∧
  (∀ off (x : Half), MatchCompletes (.matchRvlL off x) .rvl (x.toNat + 273) off)

/-- R102: CHECK_MATCH, in its order, for each match form: a back-reference before the start of output is MalformedStream
7, a match past the decoded size MalformedStream 8. That the internal state then keeps its values is the model's choice
(notes/assumptions/26.md). -/
def Obligations.MatchTokensAreChecked : Prop :=
  (∀ nib off, MatchFails (.matchMio nib off) .mio (nib.toNat + 3) off) ∧
  (∀ nib off, 1 ≤ nib.toNat → MatchFails (.matchYayS nib off) .yay (nib.toNat + 2) off) ∧
  (∀ off (e : Byte), MatchFails (.matchYayL off e) .yay (e.toNat + 18) off) ∧
  (∀ nib off, 2 ≤ nib.toNat → MatchFails (.matchRvlS nib off) .rvl (nib.toNat + 1) off) ∧
  (∀ off (e : Byte), MatchFails (.matchRvlM off e) .rvl (e.toNat + 17) off) ∧
  (∀ off (x : Half), MatchFails (.matchRvlL off x) .rvl (x.toNat + 273) off)

/-- R103: after COPY(n, off), each byte written equals the byte off + 1 positions before it, read AFTER the copy (so a run
repeats where off + 1 < n), and every other byte is as before. -/
def Obligations.CopyIsByteByByteForward : Prop :=
  ∀ (m : List Host.Cell) (base o off n : Nat), Memory.wf m = true → off < o → base + o + n ≤ Config.addressSpace →
    let m' := copyBytes m base o off n
    (∀ k, k < n → Memory.read m' (base + (o + k)) = Memory.read m' (base + (o + k - 1 - off))) ∧
    (∀ x, (x < base + o ∨ base + o + n ≤ x) → Memory.read m' x = Memory.read m x)

/-- R99, R100, R122: what a token leaves alone, completed or ended by an error: every register of the host but the status
registers and the counters, the context, the input cursors and the flag word, the parameters, and every byte of memory
outside DST[o..o') with o' the output cursor after it; a completed token also leaves STATUS, ERR_INFO, OUT_LEN, the phase
and the buffers. That the internal state keeps its values where the token ends the command is the model's choice
(notes/assumptions/26.md). -/
def Obligations.TokenFrame : Prop :=
  ∀ (i : Instr) (s t : State), tokenOf i ≠ none → exec i s = .next t →
    t.srcAddr = s.srcAddr ∧ t.srcLen = s.srcLen ∧ t.dstAddr = s.dstAddr ∧ t.dstCap = s.dstCap ∧
      t.variant = s.variant ∧ t.latSrcAddr = s.latSrcAddr ∧ t.latSrcLen = s.latSrcLen ∧ t.latDstAddr = s.latDstAddr ∧
      t.latDstCap = s.latDstCap ∧ t.dec = { s.dec with o := t.dec.o } ∧ t.enc = s.enc ∧ t.seed = s.seed ∧
      t.skip = s.skip ∧ t.params = s.params ∧ t.host = s.host ∧ t.readData = s.readData ∧ t.fresh = s.fresh ∧
      t.litSeen = s.litSeen ∧ t.matchSeen = s.matchSeen ∧
      (∀ x, (x < s.latDstAddr.toNat + s.dec.o ∨ s.latDstAddr.toNat + t.dec.o ≤ x) →
        Memory.read t.mem x = Memory.read s.mem x) ∧
      (t.phase = .runDecode → t.status = s.status ∧ t.errInfo = s.errInfo ∧ t.outLen = s.outLen ∧ t.flags = s.flags ∧
        t.dict = s.dict ∧ t.bytes = s.bytes ∧ s.dec.o < t.dec.o)

/-- The model's own refusals of tokens (notes/assumptions/14.md, 15.md): a token given to a state where no DECODE runs,
whose output region does not hold N bytes, whose output is full, or whose variant has another coding, is refused by name;
so is a short match with a nibble of another form. -/
def Obligations.TokensNeedARunningDecode : Prop :=
  (∀ (i : Instr) (s : State), i.wf = true → tokenOf i ≠ none →
    (s.phase ≠ .runDecode → exec i s = .refused .tokenOutsideDecode) ∧
    (s.phase = .runDecode → s.outputFits = false → exec i s = .refused .engineOutsideRegions) ∧
    (s.phase = .runDecode → s.outputFits = true → s.dec.n ≤ s.dec.o → exec i s = .refused .tokenPastEnd) ∧
    (s.phase = .runDecode → s.outputFits = true → s.dec.o < s.dec.n → i.coding? ≠ none → i.coding? ≠ some s.coding →
      exec i s = .refused .tokenOfOtherCoding)) ∧
  (∀ (nib : Nibble) (off : Offset) (s : State), nib.toNat < 1 → exec (.matchYayS nib off) s = .refused .illFormedToken) ∧
  (∀ (nib : Nibble) (off : Offset) (s : State), nib.toNat < 2 → exec (.matchRvlS nib off) s = .refused .illFormedToken)

/-- R97: with the current flag word used up and the output not full, the engine reads FW/8 bytes, big-endian, from the F
stream as the next flag word, or ends the command with MalformedStream 3 where fewer are left; with the output full it
reads none and completes. That the decoder's internal state keeps its values where the command ends is the model's choice
(notes/assumptions/26.md). -/
def Obligations.FlagWordsAreRead : Prop :=
  (∀ s : State, DecodingReady s → s.dec.left = 0 →
    let w := flagBytesOf s.layout
    (w = match s.layout with | .tables => 4 | .groups => 2 | .stream => 1) ∧
    step s =
      if s.dec.fpLim < s.dec.fp + w then .next (s.errorEntry .flagOverrun)
      else .next
        { s with
          dec :=
            { s.dec with
              fp := s.dec.fp + w
              word := BitVec.ofNat 32 (bigEndian ((List.range w).map fun k =>
                Memory.read s.mem (s.latSrcAddr.toNat + (s.dec.fp + k))))
              left := 8 * w } }) ∧
  (∀ s : State, s.phase = .runDecode → s.host = [] → s.inputFits = true → s.outputFits = true → s.dec.n ≤ s.dec.o →
    ∃ t, step s = .next t ∧ t.dec = s.dec ∧ t.phase = .idle)

/-- R98, R49: the tokens of a group take the flag word's bits most significant first, bit FW-1-j for token j, and a
literal is read exactly where the bit is 1. -/
def Obligations.FlagBitsMostSignificantFirst : Prop :=
  ∀ (s : State) (j : Nat) (i : Instr) (t : State), j < s.fw → s.dec.left = s.fw - j → fetchToken s = .ok (i, t) →
    t.dec.left = s.fw - (j + 1) ∧ ((∃ b, i = .lit b) ↔ s.dec.word.getLsbD (s.fw - 1 - j) = true)

/-- R94, R56, R57, R101: in the Stream layout, where the next flag bit and the next bytes are those of a token, the
decoder's fetch reads that token, and consumes the bit and exactly those bytes: 1 for a literal, 2 for a match, 3 with an
escape byte, 4 with an extra halfword. -/
def Obligations.FetchReadsStreamTokens : Prop :=
  ∀ (s : State) (i : Instr), s.layout = .stream → i.wf = true → tokenOf i ≠ none →
    (i.coding? = none ∨ i.coding? = some s.coding) → nextFlag s = (tokenCode i).flag →
    let b := inlineBytes (tokenCode i)
    s.dec.fp + b.length ≤ s.dec.fpLim → (∀ k, k < b.length → s.srcByte (s.dec.fp + k) = b.getD k 0) →
    fetchToken s = .ok (i, { s with dec := { s.dec with left := s.dec.left - 1, fp := s.dec.fp + b.length } }) ∧
    b.length =
      (match i with
        | .lit _ => 1
        | .matchYayL _ _ | .matchRvlM _ _ => 3
        | .matchRvlL _ _ => 4
        | _ => 2)

/-- R94, R54, R55: in the Tables and Groups layouts, where the next flag bit, the next bytes of the D stream and the next
bytes of the Y stream are those of a token, the decoder's fetch reads that token, and consumes exactly those. -/
def Obligations.FetchReadsSeparateStreams : Prop :=
  ∀ (s : State) (i : Instr), s.layout ≠ .stream → i.wf = true → tokenOf i ≠ none →
    (i.coding? = none ∨ i.coding? = some s.coding) → nextFlag s = (tokenCode i).flag →
    let d := (tokenCode i).dict.flatMap be16
    let y := (tokenCode i).bytes
    let cd : Cursor := if s.layout = .tables then .dp else .fp
    let x := cursorValue s.dec cd
    x + d.length ≤ cursorLimit s.dec cd → (∀ k, k < d.length → s.srcByte (x + k) = d.getD k 0) →
    s.dec.bp + y.length ≤ s.dec.bpLim → (∀ k, k < y.length → s.srcByte (s.dec.bp + k) = y.getD k 0) →
    fetchToken s = .ok (i,
      { s with
        dec := { setCursor cd (x + d.length) s.dec with left := s.dec.left - 1, bp := s.dec.bp + y.length } })

/-- R99, R100, R101, R121: the errors of a token's reads: a literal byte past the Y stream is MalformedStream 6, a
descriptor past the D stream 4, an escape byte past the Y stream or an extra halfword past the D stream 5. That the cursors
and the flag word then are as before the token is the model's choice (notes/assumptions/26.md). -/
def Obligations.OperandReadsAreBounded : Prop :=
  ∀ s : State, DecodingReady s → s.dec.left ≠ 0 →
    let y := cursorOf s.layout .y
    let d := cursorOf s.layout .d
    let x := cursorValue s.dec d
    let nib : Nibble := descNibble (BitVec.ofNat 16 (containerField s x 2))
    let afterD := setCursor d (x + 2) s.dec
    (nextFlag s = true → cursorLimit s.dec y < cursorValue s.dec y + 1 →
      step s = .next (s.errorEntry .literalOverrun)) ∧
    (nextFlag s = false → cursorLimit s.dec d < x + 2 → step s = .next (s.errorEntry .descriptorOverrun)) ∧
    (nextFlag s = false → x + 2 ≤ cursorLimit s.dec d → extraOf s.coding nib = .escape →
      cursorLimit afterD y < cursorValue afterD y + 1 → step s = .next (s.errorEntry .extraOverrun)) ∧
    (nextFlag s = false → x + 2 ≤ cursorLimit s.dec d → extraOf s.coding nib = .half →
      cursorLimit s.dec d < x + 4 → step s = .next (s.errorEntry .extraOverrun))

/-- R104, R114: once the output is full the engine completes the DECODE: OUT_LEN is N, STATUS shows DONE alone, the phase
is IDLE; nothing else changes, whatever is left of the streams and of the flag word. That the internal state keeps its
values is the model's choice (notes/assumptions/26.md). -/
def Obligations.DecodeCompletesOnFullOutput : Prop :=
  ∀ s : State, s.phase = .runDecode → s.host = [] → s.inputFits = true → s.outputFits = true → s.dec.o = s.dec.n →
    step s = .next { s with outLen := BitVec.ofNat 32 s.dec.n, status := 0x00000002, phase := .idle }

/-- R107, R123, and the same of ENCODE: a DECODE that ends with an error in a step has written nothing and counted nothing
in that step. R60, R79, R80, R81, R82, R123, R124: a step of a running ENCODE with source bytes left ends the command exactly
where an append of one of its tokens raises, by the first that does (AllocationFailure 2 for DICT, 3 for BYTES, then 1 for
the flag word): memory is unchanged, the buffers are empty, the engine is IDLE, and the counters keep the tokens completed
before it, a deferral's literal among them. Where c = L, FINISH_FLAGS with a partial word and FLAGS full raises
AllocationFailure 1 in the same way, before the fit check. -/
def Obligations.DecodeErrorsArePrecise : Prop :=
  (∀ s t : State, s.phase = .runDecode → StatusInv s → engineStep s = .next t → t.err = true →
    t.mem = s.mem ∧ t.litCount = s.litCount ∧ t.matchCount = s.matchCount ∧ t.outLen = 0 ∧ t.phase = .idle) ∧
  (∀ s : State, s.phase = .runEncode → s.host = [] → s.regionsLegal = true → EncoderInv s →
    s.enc.c < s.latSrcLen.toNat →
    (∀ e completed, roundRaises s s.nextTokens = some (e, completed) →
      ∃ t, step s = .next t ∧ EncodeEndedBy e completed s t) ∧
    (roundRaises s s.nextTokens = none → ∃ t, step s = .next t ∧ t.phase = .runEncode ∧ t.status = s.status)) ∧
  (∀ s : State, s.phase = .runEncode → s.host = [] → s.regionsLegal = true → s.latSrcLen.toNat ≤ s.enc.c →
    0 < s.enc.fbits → s.params.flagsCap.toNat ≤ s.flags.length →
    ∃ t, step s = .next t ∧ EncodeEndedBy .flagsFull [] s t)

/-! ### Match finder (spec/41_match_finder.md) -/

/-- R65, R66, R67, R69, R70, R71: FIND returns (0, 0) where no position of the window starts with the seed; otherwise a
match inside the window and the cap, longer than or equal to every other, and among equals the one MF_TIE names. -/
def Obligations.FindReturnsTheLongest : Prop :=
  ∀ (src : Nat → Byte) (len maxLen c : Nat) (tie : MfTie), 17 ≤ maxLen → c ≤ len →
    let r := Sys2Proof.Machine.find src len maxLen tie c
    let agrees (p k : Nat) : Prop := ∀ j, j < k → src (p + j) = src (c + j)
    (r = ⟨0, 0⟩ ∧ (3 ≤ len - c → ∀ p, c - 4096 ≤ p → p < c → ¬agrees p 3)) ∨
    (1 ≤ r.dist ∧ r.dist ≤ c ∧ r.dist ≤ 4096 ∧ 3 ≤ r.len ∧ r.len ≤ min (maxLen + 1) (len - c) ∧
      agrees (c - r.dist) r.len ∧
      (∀ p k, c - 4096 ≤ p → p < c → k ≤ min (maxLen + 1) (len - c) → agrees p k → k ≤ r.len) ∧
      (tie = .farthest → ∀ p, c - 4096 ≤ p → p < c - r.dist → ¬agrees p r.len) ∧
      (tie = .nearest → ∀ p, c - r.dist < p → p < c → ¬agrees p r.len))

/-- R72: FIND depends on no byte outside S[0..L), and its result is (0, 0) or a match inside the source. -/
def Obligations.FindStaysInsideTheSource : Prop :=
  ∀ (src src' : Nat → Byte) (len maxLen c : Nat) (tie : MfTie), 17 ≤ maxLen → c ≤ len →
    (∀ i, i < len → src i = src' i) →
    let r := Sys2Proof.Machine.find src len maxLen tie c
    Sys2Proof.Machine.find src' len maxLen tie c = r ∧
    (r = ⟨0, 0⟩ ∨
      (1 ≤ r.dist ∧ r.dist ≤ min c 4096 ∧ 3 ≤ r.len ∧ r.len ≤ min (maxLen + 1) (len - c) ∧
        ∀ j, j < r.len → src (c - r.dist + j) = src (c + j)))

/-- R73: a FIND with L - c >= 3 writes SEED and the SKIP of that seed, which has 256 entries: 1 for the seed's second byte,
2 for its first where that is another byte, and 3 for every other byte. -/
def Obligations.SkipTableEntries : Prop :=
  (∀ (s : State) (c : Nat), 3 ≤ s.latSrcLen.toNat - c →
    (s.noteFind c).seed = [s.srcByte c, s.srcByte (c + 1), s.srcByte (c + 2)] ∧
      (s.noteFind c).skip = skipTable (s.noteFind c).seed) ∧
  (∀ (b0 b1 b2 x : Byte), (skipTable [b0, b1, b2]).length = 256 ∧
    skipFor (skipTable [b0, b1, b2]) x = if x = b1 then 1 else if x = b0 then 2 else 3)

/-- R74: the Horspool scan, which shifts by SKIP, returns FIND's result for every source. -/
def Obligations.HorspoolScanConforms : Prop :=
  ∀ (src : Nat → Byte) (len maxLen c : Nat) (tie : MfTie), c ≤ len →
    findByScan src len maxLen tie c = Sys2Proof.Machine.find src len maxLen tie c

/-! ### Token encoder (spec/42_token_encoder.md) -/

/-- R60: APPEND puts the element last in its buffer and changes nothing else; a buffer at its capacity raises
AllocationFailure with its own subcause and takes nothing. -/
def Obligations.AppendsAreBounded : Prop :=
  ∀ (s : State) (f : Word) (d : Half) (b : Byte),
    (appendFlags f s =
      if s.flags.length < s.params.flagsCap.toNat then .ok { s with flags := s.flags ++ [f] } else .error (.flagsFull, s)) ∧
    (appendDict d s =
      if s.dict.length < s.params.dictCap.toNat then .ok { s with dict := s.dict ++ [d] } else .error (.dictFull, s)) ∧
    (appendBytes b s =
      if s.bytes.length < s.params.bytesCap.toNat then .ok { s with bytes := s.bytes ++ [b] } else .error (.bytesFull, s)) ∧
    (ErrorCause.flagsFull.sub = 1 ∧ ErrorCause.dictFull.sub = 2 ∧ ErrorCause.bytesFull.sub = 3)

/-- R81: FLAGBIT sets bit FW-1-fbits of facc, counts the token, and flushes facc to FLAGS when it is full, which raises
AllocationFailure 1 where FLAGS is. -/
def Obligations.FlagBitRecordsTheToken : Prop :=
  ∀ (bit : Bool) (s : State), s.enc.fbits < s.fw →
    let facc := if bit then s.enc.facc ||| (1#32 <<< (s.fw - 1 - s.enc.fbits)) else s.enc.facc
    (s.enc.fbits + 1 < s.fw →
      flagBit bit s = .ok { s with enc := ⟨s.enc.c, facc, s.enc.fbits + 1, s.enc.tokens + 1⟩ }) ∧
    (s.enc.fbits + 1 = s.fw → s.flags.length < s.params.flagsCap.toNat →
      flagBit bit s = .ok { s with flags := s.flags ++ [facc], enc := ⟨s.enc.c, 0, 0, s.enc.tokens + 1⟩ }) ∧
    (s.enc.fbits + 1 = s.fw → s.params.flagsCap.toNat ≤ s.flags.length →
      ∃ t, flagBit bit s = .error (.flagsFull, t) ∧ t.flags = s.flags ∧ t.litCount = s.litCount ∧
        t.matchCount = s.matchCount)

/-- R80: EMIT_MATCH appends exactly the entries and bytes of R80's case split and counts the match. -/
def Obligations.EmitMatchEffect : Prop :=
  ∀ (n d : Nat) (s : State), 3 ≤ n → n ≤ codingMax s.coding → 1 ≤ d → d ≤ 4096 → s.enc.fbits < s.fw →
    s.flags.length < s.params.flagsCap.toNat → s.dict.length + 2 ≤ s.params.dictCap.toNat →
    s.bytes.length + 1 ≤ s.params.bytesCap.toNat →
    let off := d - 1
    let added : List Nat × List Nat :=
      match s.coding with
      | .mio => ([(n - 3) * 4096 + off], [])
      | .yay => if n < 18 then ([(n - 2) * 4096 + off], []) else ([off], [n - 18])
      | .rvl =>
        if n < 17 then ([(n - 1) * 4096 + off], [])
        else if n < 273 then ([off], [n - 17])
        else ([4096 + off, n - 273], [])
    ∃ t, emitMatch n d s = .ok t ∧ t.dict = s.dict ++ added.1.map (BitVec.ofNat 16) ∧
      t.bytes = s.bytes ++ added.2.map (BitVec.ofNat 8) ∧ t.matchCount = s.matchCount + 1 ∧
      t.litCount = s.litCount ∧ t.enc.tokens = s.enc.tokens + 1 ∧ t.enc.c = s.enc.c ∧ t.mem = s.mem

/-- R76, R77, R78, R79, R80: one step of a running ENCODE with source bytes left and room in the buffers emits the round's
tokens: a literal where FIND(c) gives less than 3; where FIND(c + 1) is longer by more than 1, a literal and the later
match; otherwise the match; a match clamped to MAXLEN. The cursor advances by the bytes they cover, DICT and BYTES grow by
exactly their elements, FLAGS, the accumulator and its bit count take exactly their flag bits (R81: bit FW-1-fbits, 1 for a
literal, a full word flushed), the counters grow by their numbers, and nothing else changes but SEED and SKIP. -/
def Obligations.EncodeRoundCompletes : Prop :=
  ∀ s : State, s.phase = .runEncode → s.host = [] → s.regionsLegal = true → s.enc.c < s.latSrcLen.toNat →
    s.enc.fbits < s.fw → s.flags.length < s.params.flagsCap.toNat → s.dict.length + 2 ≤ s.params.dictCap.toNat →
    s.bytes.length + 2 ≤ s.params.bytesCap.toNat →
    let here := s.find s.enc.c
    let next := s.find (s.enc.c + 1)
    let b := Memory.read s.mem (s.latSrcAddr.toNat + s.enc.c)
    let ts : List Token :=
      if here.len < 3 then [.literal b]
      else if next.len > here.len + 1 then [.literal b, .copy (min next.len s.maxLen) next.dist]
      else [.copy (min here.len s.maxLen) here.dist]
    ∃ t, step s = .next t ∧ t.phase = .runEncode ∧ t.enc.c = s.enc.c + spanOf ts ∧
      t.enc.tokens = s.enc.tokens + ts.length ∧ t.dict = s.dict ++ dictOf s.coding ts ∧
      t.bytes = s.bytes ++ bytesOf s.coding ts ∧ t.litCount = s.litCount + BitVec.ofNat 32 (literalsIn ts) ∧
      t.matchCount = s.matchCount + BitVec.ofNat 32 (copiesIn ts) ∧ t.mem = s.mem ∧ t.status = s.status ∧
      (t.flags, t.enc.facc, t.enc.fbits) = ts.foldl (recordFlag s.fw) (s.flags, s.enc.facc, s.enc.fbits) ∧
      t = { ts.foldl afterToken s with seed := t.seed, skip := t.skip }

/-- R82, R49: FINISH_FLAGS leaves exactly ceil(T / FW) flag words and no partial word, and changes no other stream. -/
def Obligations.FlagWordsCoverTheTokens : Prop :=
  ∀ s : State, EncoderInv s → s.flags.length < s.params.flagsCap.toNat →
    ∃ t, finishFlags s = .ok t ∧ t.flags.length = (s.enc.tokens + s.fw - 1) / s.fw ∧ t.enc.fbits = 0 ∧
      t.dict = s.dict ∧ t.bytes = s.bytes ∧ t.mem = s.mem

/-- R83 (1), R91: the tokens of a source cover exactly its length, and the first is a literal. -/
def Obligations.TokensCoverTheSource : Prop :=
  ∀ (src : Nat → Byte) (len maxLen : Nat) (tie : MfTie), 17 ≤ maxLen → 1 ≤ len →
    spanOf (sourceTokens src len maxLen tie) = len ∧
    ∃ rest, sourceTokens src len maxLen tie = .literal (src 0) :: rest

/-- R106 for the token sequence: the tokens of a source expand to the source. -/
def Obligations.TokensExpandToTheSource : Prop :=
  ∀ (src : Nat → Byte) (len maxLen : Nat) (tie : MfTie), 17 ≤ maxLen →
    expandFrom [] (sourceTokens src len maxLen tie) = sourceBytes src len

/-! ### Stream assembler (spec/43_stream_assembler.md) -/

/-- R92: the decoded-size field of every assembled container is BE32 of L, at offset 0x08 for Groups and 0x04 otherwise.
And the whole header: the variant's magic at 0x00; in Tables the offsets of the dictionary region and of the bytes region,
with those regions at those offsets; in Groups the constant GROUPS_HDR_W1 at 0x04 and the offset of the literal-bytes region
at 0x0C; in Stream two zero words. -/
def Obligations.HeaderHoldsTheSourceLength : Prop :=
  ∀ s : State,
    ((s.container.drop (if s.layout = .groups then 8 else 4)).take 4) = be32 s.latSrcLen ∧
    (let magic : List Byte :=
      match s.variant with
      | .mio0 => [0x4D, 0x49, 0x4F, 0x30]
      | .smsr00 => [0x53, 0x4D, 0x53, 0x52]
      | .yay0 => [0x59, 0x61, 0x79, 0x30]
      | .yaz0 => [0x59, 0x61, 0x7A, 0x30]
      | .rvl0 => [0x52, 0x76, 0x6C, 0x30]
    s.container.take 16 =
      match s.layout with
      | .tables =>
        magic ++ be32 s.latSrcLen ++ be32 (BitVec.ofNat 32 (16 + 4 * s.flags.length)) ++
          be32 (BitVec.ofNat 32 (16 + 4 * s.flags.length + 2 * s.dict.length))
      | .groups =>
        magic ++ be32 s.params.groupsHdrW1 ++ be32 s.latSrcLen ++
          be32 (BitVec.ofNat 32 (16 + 2 * s.flags.length + 2 * s.dict.length))
      | .stream => magic ++ be32 s.latSrcLen ++ [0, 0, 0, 0] ++ [0, 0, 0, 0]) ∧
    (s.layout = .tables →
      (s.container.drop 16).take (4 * s.flags.length) = s.flags.flatMap be32 ∧
      (s.container.drop (16 + 4 * s.flags.length)).take (2 * s.dict.length) = s.dict.flatMap be16 ∧
      s.container.drop (16 + 4 * s.flags.length + 2 * s.dict.length) = s.bytes)

/-- R86, R90, R112, R114: the end of ENCODE, once c = L and FINISH_FLAGS has succeeded: where N passes DST_CAP, the command
ends with AllocationFailure 4 and memory is unchanged; otherwise the container is written from DST_ADDR on, the buffers are
released, OUT_LEN is N, STATUS shows DONE alone and the phase is IDLE. -/
def Obligations.EncodeEndsByTheFitCheck : Prop :=
  ∀ s t : State, s.phase = .runEncode → s.host = [] → s.regionsLegal = true → s.latSrcLen.toNat ≤ s.enc.c →
    finishFlags s = .ok t →
    (s.latDstCap.toNat < t.containerSize →
      ∃ u, step s = .next u ∧ u.status = 0x00000104 ∧ u.errInfo = 4 ∧ u.outLen = 0 ∧ u.phase = .idle ∧ u.mem = s.mem ∧
        u.litCount = s.litCount ∧ u.matchCount = s.matchCount) ∧
    (t.containerSize ≤ s.latDstCap.toNat →
      ∃ u, step s = .next u ∧ u.status = 0x00000002 ∧ u.errInfo = s.errInfo ∧
        u.outLen = BitVec.ofNat 32 t.containerSize ∧ u.phase = .idle ∧ BuffersEmpty u ∧
        u.mem = Memory.writeBytes s.mem s.latDstAddr.toNat t.container ∧ u.litCount = s.litCount ∧
        u.matchCount = s.matchCount)

/-! ### Errors (spec/60_exceptions.md) -/

/-- R122, R125: ERROR_ENTRY sets STATUS, ERR_INFO and OUT_LEN, releases the buffers and makes the engine IDLE, and changes
nothing else; STATUS then reads ERR = 1, BUSY = 0, DONE = 0 and the cause's code, until CLEAR zeroes it. R120, R121: the
codes and subcauses of the causes, in the table's order, and no other pair. That the internal state R25 leaves unspecified
in IDLE keeps its values is the model's choice (notes/assumptions/26.md). -/
def Obligations.ErrorEntryEffect : Prop :=
  (∀ (e : ErrorCause) (s : State),
    s.errorEntry e =
      { s with
        status := BitVec.ofNat 32 (e.code * 256 + 4), errInfo := BitVec.ofNat 32 e.sub, outLen := 0, phase := .idle
        flags := [], dict := [], bytes := [] } ∧
    (s.errorEntry e).err = true ∧ (s.errorEntry e).busy = false ∧ (s.errorEntry e).done = false ∧
    (s.errorEntry e).errCode.toNat = e.code ∧ (s.errorEntry e).clearStatus.status = 0) ∧
  [ErrorCause.flagsFull, .dictFull, .bytesFull, .containerTooBig, .decodedTooBig, .badMagic, .shortContainer,
    .badAuxOffset, .flagOverrun, .descriptorOverrun, .extraOverrun, .literalOverrun, .beforeStart, .pastDecodedSize,
    .inputSize, .decodedSize, .reservedOp, .reservedVariant, .reservedBits, .inputWraps, .outputWraps,
    .regionsOverlap].map (fun e => (e.code, e.sub)) =
    [(1, 1), (1, 2), (1, 3), (1, 4), (1, 5), (2, 1), (3, 1), (3, 2), (3, 3), (3, 4), (3, 5), (3, 6), (3, 7), (3, 8), (4, 1),
      (4, 2), (5, 1), (5, 2), (5, 3), (5, 4), (5, 5), (5, 6)] ∧
  (∀ e : ErrorCause, 1 ≤ e.code ∧ e.code ≤ 5 ∧ 1 ≤ e.sub ∧
    e.sub ≤ (if e.code = 1 then 5 else if e.code = 2 then 1 else if e.code = 3 then 8 else if e.code = 4 then 2 else 6))

/-! ### Registers and the host (spec/10_state.md, spec/20_memory.md, spec/70_reset_and_hazards.md) -/

/-- R10: in every state the invariant admits, at most one of BUSY, DONE and ERR is 1, ERRCODE is nonzero exactly when ERR =
1, the reserved bits are 0, and a write of STATUS is ignored. -/
def Obligations.StatusFieldsAreExclusive : Prop :=
  ∀ s : State, StatusInv s →
    ¬(s.busy ∧ s.done) ∧ ¬(s.busy ∧ s.err) ∧ ¬(s.done ∧ s.err) ∧ (s.errCode ≠ 0 ↔ s.err = true) ∧
    (∀ k, ((3 ≤ k ∧ k ≤ 7) ∨ 12 ≤ k) → s.status.getLsbD k = false) ∧ (∀ v, s.setRegister 0x04 v = s)

/-- R8, R9, R17, R35: an aligned 32-bit read while BUSY = 0 hands the host the register's value, 0 for CMD and the reserved
offsets, and changes nothing else. R58, R145: POLL hands the host STATUS; with BUSY = 0 it moves on and changes nothing else;
while BUSY = 1 it stays in the host's script and the engine steps (that the engine steps in the same step is the model's
choice, notes/assumptions/5.md). -/
def Obligations.RegisterReads : Prop :=
  (∀ (s : State) (rest : List HostOp), s.host = .poll :: rest →
    (s.busy = false → step s = .next { s with host := rest, readData := s.status }) ∧
    (s.busy = true → step s = engineStep { s with readData := s.status } ∧
      ∀ t, step s = .next t → t.host = .poll :: rest ∧ t.readData = s.status)) ∧
  ∀ (s : State) (off : BitVec 8) (rest : List HostOp), s.busy = false → off.toNat % 4 = 0 →
    s.host = opRD s.params off :: rest →
    step s = .next
      { s with
        host := rest
        readData :=
          if off = 0x04 then s.status else if off = 0x08 then s.srcAddr else if off = 0x0C then s.srcLen
          else if off = 0x10 then s.dstAddr else if off = 0x14 then s.dstCap else if off = 0x18 then s.outLen
          else if off = 0x1C then s.errInfo else if off = 0x20 then s.litCount else if off = 0x24 then s.matchCount
          else if off = 0x28 then s.params.lzcId else 0 }

/-- R8, R11, R12, R141: an aligned 32-bit write at an offset other than CMD's, busy or not, changes the region register
there, or nothing where the offset is read-only or reserved. -/
def Obligations.RegisterWrites : Prop :=
  ∀ (s : State) (off : BitVec 8) (v : Word) (rest : List HostOp), off.toNat % 4 = 0 → off ≠ 0 →
    s.host = opWR s.params off v :: rest →
    step s = .next
      { s with
        host := rest
        srcAddr := if off = 0x08 then v else s.srcAddr
        srcLen := if off = 0x0C then v else s.srcLen
        dstAddr := if off = 0x10 then v else s.dstAddr
        dstCap := if off = 0x14 then v else s.dstCap }

/-- R34: a register access that is not an aligned 32-bit one: a write changes nothing, a read hands over a free value and
changes nothing else. -/
def Obligations.NarrowAccesses : Prop :=
  ∀ (s : State) (off : BitVec 8) (width : AccessWidth) (v : Word) (rest : List HostOp),
    (width ≠ .word ∨ off.toNat % 4 ≠ 0) →
    (s.host = .write (regAddress s.params off) width v :: rest → step s = .next { s with host := rest }) ∧
    (s.host = .read (regAddress s.params off) width :: rest →
      step s = .next { s with host := rest, readData := Config.freeWord s.fresh, fresh := s.fresh + 1 })

/-- R142: while BUSY = 1 a read of LIT_COUNT or MATCH_COUNT hands over a value no smaller than the last one read in this
command, and no larger than the counter at the command's end where the last one was not (CounterReadsStayInRange says that
it never is); nothing else the block holds changes. The counter at the command's end is taken as that of the state the
engine alone reaches, which is DEDUCED (notes/assumptions/9.md). STATUS reads 1, OUT_LEN and ERR_INFO read 0, the region
registers and ID read their values. R8, R9: CMD and the reserved offsets read 0. -/
def Obligations.ReadsWhileBusy : Prop :=
  ∀ (s : State) (off : BitVec 8) (rest : List HostOp), s.busy = true → RunningStatus s →
    s.host = opRD s.params off :: rest →
    (off = 0x20 → ∃ v, step s = .next { s with host := rest, readData := v, litSeen := v, fresh := s.fresh + 1 } ∧
      s.litSeen.toNat ≤ v.toNat ∧
      (s.litSeen.toNat ≤ s.finished.litCount.toNat → v.toNat ≤ s.finished.litCount.toNat)) ∧
    (off = 0x24 → ∃ v, step s = .next { s with host := rest, readData := v, matchSeen := v, fresh := s.fresh + 1 } ∧
      s.matchSeen.toNat ≤ v.toNat ∧
      (s.matchSeen.toNat ≤ s.finished.matchCount.toNat → v.toNat ≤ s.finished.matchCount.toNat)) ∧
    (off = 0x04 → step s = .next { s with host := rest, readData := 1 }) ∧
    (off = 0x18 ∨ off = 0x1C → step s = .next { s with host := rest, readData := 0 }) ∧
    (off = 0x08 → step s = .next { s with host := rest, readData := s.srcAddr }) ∧
    (off = 0x0C → step s = .next { s with host := rest, readData := s.srcLen }) ∧
    (off = 0x10 → step s = .next { s with host := rest, readData := s.dstAddr }) ∧
    (off = 0x14 → step s = .next { s with host := rest, readData := s.dstCap }) ∧
    (off = 0x28 → step s = .next { s with host := rest, readData := s.params.lzcId }) ∧
    (off = 0x00 ∨ (0x2C ≤ off.toNat ∧ off.toNat % 4 = 0) → step s = .next { s with host := rest, readData := 0 })

/-- R142: from a state the invariant admits, the values that reads of the counters have returned in the running command stay
at most the counters at its end, whatever the host and the engine do next. The counters at its end are taken as those of
the state the engine alone reaches, which is DEDUCED (notes/assumptions/9.md). -/
def Obligations.CounterReadsStayInRange : Prop :=
  ∀ s t : State, Inv s → DrawsInRange s → step s = .next t → DrawsInRange t

/-- R13: a running command sees only the latches: changing the region registers before an engine step, or after it, is the
same. -/
def Obligations.RunningCommandSeesOnlyTheLatches : Prop :=
  ∀ (s : State) (a l d c : Word),
    let change : State → State := fun s => { s with srcAddr := a, srcLen := l, dstAddr := d, dstCap := c }
    engineStep (change s) = onNext change (engineStep s)

/-- R139, R116: while BUSY = 1 the host has no move that writes a byte of either latched region or reads one of the output
region (the model refuses it by name, notes/assumptions/12.md); every other access to a byte of memory goes through, and changes that byte alone or
hands its value over. That a read sees the
engine's bytes as soon as the command has ended, before a STATUS read shows BUSY = 0, is the model's choice
(notes/assumptions/27.md). -/
def Obligations.HostMemoryAccesses : Prop :=
  ∀ (s : State) (addr : Word) (v : Byte) (rest : List HostOp),
    let within (base len : Word) : Prop := base.toNat ≤ addr.toNat ∧ addr.toNat < base.toNat + len.toNat
    let inSrc := within s.latSrcAddr s.latSrcLen
    let inDst := within s.latDstAddr s.latDstCap
    (s.host = .memWrite addr v :: rest →
      (s.busy = true ∧ (inSrc ∨ inDst) → step s = .refused (.hostRace addr)) ∧
      (¬(s.busy = true ∧ (inSrc ∨ inDst)) →
        step s = .next { s with host := rest, mem := Memory.write s.mem addr.toNat v })) ∧
    (s.host = .memRead addr :: rest →
      (s.busy = true ∧ inDst → step s = .refused (.hostRace addr)) ∧
      (¬(s.busy = true ∧ inDst) →
        step s = .next { s with host := rest, readData := (Memory.read s.mem addr.toNat).setWidth 32 }))

/-- R135: the state after reset, value by value as the rule's table gives them (the values the spec leaves unspecified, and
the model's own fields, are not stated). -/
def Obligations.ResetValues : Prop :=
  State.reset.register 0x00 = 0 ∧ State.reset.status = 0 ∧ State.reset.busy = false ∧ State.reset.done = false ∧
  State.reset.err = false ∧ State.reset.errCode = 0 ∧ State.reset.srcAddr = 0 ∧ State.reset.srcLen = 0 ∧
  State.reset.dstAddr = 0 ∧ State.reset.dstCap = 0 ∧ State.reset.outLen = 0 ∧ State.reset.errInfo = 0 ∧
  State.reset.litCount = 0 ∧ State.reset.matchCount = 0 ∧ State.reset.register 0x28 = State.reset.params.lzcId ∧
  State.reset.params.lzcId = 0x4C5A4337 ∧ State.reset.phase = .idle ∧ BuffersEmpty State.reset

/-- R135, R136, R137: a reset gives the registers and the phase their reset values and keeps the parameters; memory is
unchanged when BUSY = 0, and outside the latched output region when BUSY = 1, each byte of which then holds a free value. That
the parameters and the host's script stay is the model's choice (notes/assumptions/23.md, DESIGN CHOICE), and so is that the
bytes take the draws in address order (notes/assumptions/10.md, DESIGN CHOICE). -/
def Obligations.ResetDuringACommand : Prop :=
  ∀ (s : State) (rest : List HostOp), s.host = .reset :: rest →
    ∃ t, step s = .next t ∧ t.status = 0 ∧ t.srcAddr = 0 ∧ t.srcLen = 0 ∧ t.dstAddr = 0 ∧ t.dstCap = 0 ∧ t.outLen = 0 ∧
      t.errInfo = 0 ∧ t.litCount = 0 ∧ t.matchCount = 0 ∧ t.phase = .idle ∧ BuffersEmpty t ∧ t.params = s.params ∧
      t.host = rest ∧ (s.busy = false → t.mem = s.mem) ∧
      (∀ x, (x < s.latDstAddr.toNat ∨ s.latDstAddr.toNat + s.latDstCap.toNat ≤ x) →
        Memory.read t.mem x = Memory.read s.mem x) ∧
      (s.busy = true → Memory.wf s.mem = true → ∀ i, i < s.latDstCap.toNat →
        s.latDstAddr.toNat + i < Config.addressSpace →
        Memory.read t.mem (s.latDstAddr.toNat + i) = Config.freeByte (s.fresh + i))

/-- R134, R137: with the engine IDLE and nothing for the host to do, a step changes nothing. -/
def Obligations.IdleKeepsTheState : Prop :=
  ∀ s : State, s.phase = .idle → s.host = [] → step s = .next s

/-! ### The machine's step -/

/-- A host write of a word to CMD runs the instruction the word decodes to, with the host's script moved on (the script is
the model's own, notes/assumptions/5.md). -/
def Obligations.StepRunsTheCommandWord : Prop :=
  ∀ (s : State) (w : Word) (i : Instr) (rest : List HostOp), s.host = opWR s.params 0 w :: rest →
    decodeCommand w = .ok i → step s = exec i { s with host := rest }

/-- Where the flag bit and the operands of a token are next in the streams of a running DECODE, a step runs that token,
with its flag bit and operands consumed (one step per token is the model's choice, notes/assumptions/4.md). -/
def Obligations.StepRunsTheToken : Prop :=
  ∀ (s t : State) (i : Instr), DecodingReady s → s.dec.left ≠ 0 → fetchToken s = .ok (i, t) → step s = exec i t

/-! ### The whole machine -/

/-- The invariant holds right after reset. -/
def Obligations.InvariantAtReset : Prop := Inv State.reset

/-- Every step keeps the invariant: memory canonical, parameters in range, STATUS in step with the phase, the running
command's context legal, the encoder's and the decoder's counts and cursors in range, the buffers empty outside ENCODE. -/
def Obligations.EveryStepKeepsTheInvariant : Prop :=
  ∀ s t : State, Inv s → step s = .next t → Inv t

/-- R28, R44, R119: an engine step changes no byte of memory outside the latched output region; so, in the states the
invariant admits, none of the input region. -/
def Obligations.EngineWritesOnlyTheOutputRegion : Prop :=
  ∀ s t : State, Inv s → engineStep s = .next t →
    (∀ x, (x < s.latDstAddr.toNat ∨ s.latDstAddr.toNat + s.latDstCap.toNat ≤ x) →
      Memory.read t.mem x = Memory.read s.mem x) ∧
    (s.phase ≠ .idle → ∀ i, i < s.latSrcLen.toNat → t.srcByte i = s.srcByte i)

/-- R5, R116, R145: in the states the invariant admits a step stops for the host's own doing alone. It faults only where the
host's next operation is a register read or write at an address outside the register window (notes/assumptions/13.md), and
is refused only where BUSY = 1 and that operation writes a byte of either latched region or reads one of the latched output
region, which R139 forbids (notes/assumptions/12.md). No instruction stops it. -/
def Obligations.OnlyTheHostCanStopTheMachine : Prop :=
  ∀ s : State, Inv s →
    (∃ t, step s = .next t) ∨
    (∃ op addr rest, s.host = op :: rest ∧
      ((∃ width, op = .read addr width) ∨ ∃ width v, op = .write addr width v) ∧
      regOffset? s.params addr = none ∧ step s = .fault (.noRegister addr)) ∨
    (s.busy = true ∧ ∃ op addr rest, s.host = op :: rest ∧
      (((∃ v, op = .memWrite addr v) ∧
          ((s.latSrcAddr.toNat ≤ addr.toNat ∧ addr.toNat < s.latSrcAddr.toNat + s.latSrcLen.toNat) ∨
            (s.latDstAddr.toNat ≤ addr.toNat ∧ addr.toNat < s.latDstAddr.toNat + s.latDstCap.toNat))) ∨
        (op = .memRead addr ∧
          s.latDstAddr.toNat ≤ addr.toNat ∧ addr.toNat < s.latDstAddr.toNat + s.latDstCap.toNat)) ∧
      step s = .refused (.hostRace addr))

/-- R145: every command ends: from every state the invariant admits, the engine alone reaches IDLE after finitely many
steps, with DONE or ERR where a command was running. -/
def Obligations.EveryCommandEnds : Prop :=
  ∀ s : State, Inv s → s.finished.phase = .idle ∧ (s.phase ≠ .idle → s.finished.done = true ∨ s.finished.err = true)

/-- R112, R84, R85, R86, R90, R114: what an ENCODE does from its CMD write to its end, where the buffers hold the streams
of the source's tokens: the container assembled from them has the size of R85; where it fits it is written from DST_ADDR on,
OUT_LEN is its size and STATUS shows DONE alone; where it does not, the command ends with AllocationFailure 4 and memory is
unchanged; the counters hold the numbers of tokens. -/
def Obligations.EncodeWritesTheContainer : Prop :=
  ∀ (v : Variant) (s : State), s.busy = false → RegionsStart s →
    let src : Nat → Byte := fun i => Memory.read s.mem (s.srcAddr.toNat + i)
    let ts := sourceTokens src s.srcLen.toNat (maxLenOf s.params v) s.params.mfTie
    let flags := flagWordsFrom (flagWidthOf v) 0 0 ts
    let dict := dictOf (codingOf v) ts
    let bytes := bytesOf (codingOf v) ts
    flags.length ≤ s.params.flagsCap.toNat → dict.length ≤ s.params.dictCap.toNat →
    bytes.length ≤ s.params.bytesCap.toNat →
    let size := 16 + flagBytesOf (layoutOf v) * flags.length + 2 * dict.length + bytes.length
    let out : List Byte :=
      match layoutOf v with
      | .tables => assembleTables (magicOf v) s.srcLen flags dict bytes
      | .groups => assembleGroups (magicOf v) s.params.groupsHdrW1 s.srcLen ts.length flags dict bytes
      | .stream => assembleStream (codingOf v) (magicOf v) s.srcLen ts.length flags dict bytes
    let t := s.runCommand (commandWord 1 (codeOfVariant v))
    out.length = size ∧ t.litCount = BitVec.ofNat 32 (literalsIn ts) ∧ t.matchCount = BitVec.ofNat 32 (copiesIn ts) ∧
      (size ≤ s.dstCap.toNat →
        t.status = 0x00000002 ∧ t.errInfo = 0 ∧ t.outLen = BitVec.ofNat 32 size ∧
          t.mem = Memory.writeBytes s.mem s.dstAddr.toNat out) ∧
      (s.dstCap.toNat < size → t.status = 0x00000104 ∧ t.errInfo = 4 ∧ t.outLen = 0 ∧ t.mem = s.mem)

/-- R115, R137: a command depends on no state left by an earlier one: two idle states with the same memory, region
registers and parameters end a command with the same memory, STATUS, ERR_INFO, OUT_LEN and counters. R115's last bullet: nor
does it depend on SRC_ADDR and DST_ADDR but for the checks of R111: two idle states whose regions pass them, with the same
input bytes, initial output bytes, sizes and parameters, end any command with the same output bytes, STATUS, ERR_INFO,
OUT_LEN and counters, wherever the regions stand. -/
def Obligations.CommandsForgetEarlierOnes : Prop :=
  (∀ (w : Word) (s t : State), Inv s → Inv t → s.busy = false → t.busy = false → s.params = t.params →
    s.srcLen = t.srcLen → s.dstCap = t.dstCap → RegionsStart s → RegionsStart t →
    (∀ i, i < s.srcLen.toNat → Memory.read s.mem (s.srcAddr.toNat + i) = Memory.read t.mem (t.srcAddr.toNat + i)) →
    (∀ i, i < s.dstCap.toNat → Memory.read s.mem (s.dstAddr.toNat + i) = Memory.read t.mem (t.dstAddr.toNat + i)) →
    let u := s.runCommand w
    let u' := t.runCommand w
    (∀ i, i < s.dstCap.toNat →
      Memory.read u.mem (s.dstAddr.toNat + i) = Memory.read u'.mem (t.dstAddr.toNat + i)) ∧
      u.status = u'.status ∧ u.errInfo = u'.errInfo ∧ u.outLen = u'.outLen ∧ u.litCount = u'.litCount ∧
      u.matchCount = u'.matchCount) ∧
  ∀ (w : Word) (s t : State), Inv s → Inv t → s.busy = false → t.busy = false → s.mem = t.mem → s.params = t.params →
    s.srcAddr = t.srcAddr → s.srcLen = t.srcLen → s.dstAddr = t.dstAddr → s.dstCap = t.dstCap →
    ¬(w.toNat % 16 = 0 ∧ w.toNat / 256 = 0) →
    let u := s.runCommand w
    let u' := t.runCommand w
    u.mem = u'.mem ∧ u.status = u'.status ∧ u.errInfo = u'.errInfo ∧ u.outLen = u'.outLen ∧
      u.litCount = u'.litCount ∧ u.matchCount = u'.matchCount

/-- R106, R105: where an ENCODE completes, a DECODE of the same variant, with the container as its input and room for the
source, reproduces the source, with the same counters, and consumes every byte of the container's regions. The premise that
the second command's regions pass the start checks leaves out a container longer than SIZE_MAX, which R106's words include
and R111 forbids as an input (notes/assumptions/25.md, DEDUCED). The cursors are read after the DECODE has ended, where R25
leaves them unspecified: that they keep their values is the model's choice (notes/assumptions/26.md). -/
def Obligations.DecodeReproducesTheSource : Prop :=
  ∀ (v : Variant) (s u : State) (dst cap : Word), Inv s → s.busy = false → RegionsStart s →
    let t := s.runCommand (commandWord 1 (codeOfVariant v))
    t.status = 0x00000002 →
    u = { t with srcAddr := t.dstAddr, srcLen := t.outLen, dstAddr := dst, dstCap := cap } → RegionsStart u →
    s.srcLen.toNat ≤ cap.toNat →
    let w := u.runCommand (commandWord 2 (codeOfVariant v))
    w.status = 0x00000002 ∧ w.outLen = s.srcLen ∧
      (∀ i, i < s.srcLen.toNat → Memory.read w.mem (dst.toNat + i) = Memory.read s.mem (s.srcAddr.toNat + i)) ∧
      w.litCount = t.litCount ∧ w.matchCount = t.matchCount ∧ w.dec.fp = w.dec.fpLim ∧ w.dec.dp = w.dec.dpLim ∧
      w.dec.bp = w.dec.bpLim
end

