-- ==== Sys2Proof/Laws/Memory.lean ====
section
/-! SUPPORT. System memory: read after write, what a write leaves alone, and that every memory operation keeps the
canonical form. -/

namespace Sys2Proof.Machine

/-- A memory in canonical form from `lo` on is in canonical form from any lower address on. -/
theorem Memory.wfFrom_mono {lo lo' : Nat} (h : lo' ≤ lo) {m : List Host.Cell} (hm : Memory.wfFrom lo m = true) :
    Memory.wfFrom lo' m = true := by
  cases m with
  | nil => rfl
  | cons c m =>
    obtain ⟨a, v⟩ := c
    simp only [Memory.wfFrom, Bool.and_eq_true, decide_eq_true_eq] at hm ⊢
    exact ⟨⟨⟨by omega, hm.1.1.2⟩, hm.1.2⟩, hm.2⟩

/-- A memory in canonical form from above an address on lists nothing at it. -/
theorem Memory.read_below {m : List Host.Cell} : ∀ {lo a : Nat}, a < lo → Memory.wfFrom lo m = true →
    Memory.read m a = Config.unlisted := by
  induction m with
  | nil => intros; rfl
  | cons c m ih =>
    obtain ⟨b, v⟩ := c
    intro lo a h hm
    simp only [Memory.wfFrom, Bool.and_eq_true, decide_eq_true_eq] at hm
    rw [Memory.read, if_neg (by omega)]
    exact ih (by omega) hm.2

/-- A read after a write of the same address gives the byte written. -/
theorem Memory.read_write_same {m : List Host.Cell} {a : Nat} {v : Byte} :
    ∀ {lo : Nat}, Memory.wfFrom lo m = true → Memory.read (Memory.write m a v) a = v := by
  induction m with
  | nil =>
    intro lo _
    by_cases hv : v = Config.unlisted <;> simp [Memory.write, Memory.read, hv]
  | cons c m ih =>
    obtain ⟨b, w⟩ := c
    intro lo hm
    have hm' := hm
    simp only [Memory.wfFrom, Bool.and_eq_true, decide_eq_true_eq] at hm
    rw [Memory.write]
    split
    · split
      · rename_i hlt hv
        rw [Memory.read, if_neg (by omega), hv]
        exact Memory.read_below (by omega) hm.2
      · simp [Memory.read]
    · split
      · split
        · rename_i hab hv
          rw [hv]
          exact Memory.read_below (by omega) hm.2
        · simp [Memory.read]
      · rename_i hab
        rw [Memory.read, if_neg hab]
        exact ih hm.2

/-- A write leaves every other address alone. -/
theorem Memory.read_write_other {m : List Host.Cell} {a x : Nat} {v : Byte} (h : x ≠ a) :
    Memory.read (Memory.write m a v) x = Memory.read m x := by
  induction m with
  | nil => by_cases hv : v = Config.unlisted <;> simp [Memory.write, Memory.read, hv, h]
  | cons c m ih =>
    obtain ⟨b, w⟩ := c
    rw [Memory.write]
    split
    · split
      · rfl
      · simp [Memory.read, h]
    · split
      · rename_i hab
        subst hab
        split <;> simp [Memory.read, h]
      · simp only [Memory.read, ih]

/-- A write at an address of the address space keeps the canonical form. -/
theorem Memory.write_wfFrom {a : Nat} {v : Byte} (ha : a < Config.addressSpace) {m : List Host.Cell} :
    ∀ {lo : Nat}, lo ≤ a → Memory.wfFrom lo m = true → Memory.wfFrom lo (Memory.write m a v) = true := by
  induction m with
  | nil =>
    intro lo hlo _
    by_cases hv : v = Config.unlisted <;> simp [Memory.write, Memory.wfFrom, hv, hlo, ha]
  | cons c m ih =>
    obtain ⟨b, w⟩ := c
    intro lo hlo hm
    have hm' := hm
    simp only [Memory.wfFrom, Bool.and_eq_true, decide_eq_true_eq] at hm
    rw [Memory.write]
    split
    · split
      · exact hm'
      · rename_i hab hv
        simp only [Memory.wfFrom, Bool.and_eq_true, decide_eq_true_eq]
        exact ⟨⟨⟨hlo, ha⟩, hv⟩, ⟨⟨by omega, hm.1.1.2⟩, hm.1.2⟩, hm.2⟩
    · split
      · rename_i hab
        split
        · exact Memory.wfFrom_mono (by omega) hm.2
        · rename_i hv
          simp only [Memory.wfFrom, Bool.and_eq_true, decide_eq_true_eq]
          exact ⟨⟨⟨hlo, ha⟩, hv⟩, by rw [hab]; exact hm.2⟩
      · simp only [Memory.wfFrom, Bool.and_eq_true, decide_eq_true_eq]
        exact ⟨hm.1, ih (by omega) hm.2⟩

/-- A write at an address of the address space keeps memory in its canonical form. -/
theorem Memory.write_wf {m : List Host.Cell} {a : Nat} {v : Byte} (ha : a < Config.addressSpace)
    (hm : Memory.wf m = true) : Memory.wf (Memory.write m a v) = true :=
  Memory.write_wfFrom ha (Nat.zero_le a) hm

/-- Writing a byte sequence inside the address space keeps the canonical form. -/
theorem Memory.writeBytes_wf : ∀ (out : List Byte) {m : List Host.Cell} {base : Nat},
    base + out.length ≤ Config.addressSpace → Memory.wf m = true → Memory.wf (Memory.writeBytes m base out) = true
  | [], _, _, _, hm => hm
  | _ :: out, m, base, h, hm => by
    simp only [List.length_cons] at h
    exact Memory.writeBytes_wf out (by omega) (Memory.write_wf (by omega) hm)

/-- Writing free values inside the address space keeps the canonical form. -/
theorem Memory.writeFree_wf : ∀ (count : Nat) {m : List Host.Cell} {base k : Nat},
    base + count ≤ Config.addressSpace → Memory.wf m = true → Memory.wf (Memory.writeFree m base k count) = true
  | 0, _, _, _, _, hm => hm
  | count + 1, _, _, _, h, hm => Memory.writeFree_wf count (by omega) (Memory.write_wf (by omega) hm)

/-- COPY inside the address space keeps the canonical form. -/
theorem copyBytes_wf : ∀ (n : Nat) {m : List Host.Cell} {base o off : Nat},
    base + o + n ≤ Config.addressSpace → Memory.wf m = true → Memory.wf (copyBytes m base o off n) = true
  | 0, _, _, _, _, _, hm => hm
  | n + 1, _, _, _, _, h, hm => copyBytes_wf n (by omega) (Memory.write_wf (by omega) hm)

/-- Writing a byte sequence leaves every address outside it alone. -/
theorem Memory.read_writeBytes_outside : ∀ (out : List Byte) {m : List Host.Cell} {base x : Nat},
    (x < base ∨ base + out.length ≤ x) → Memory.read (Memory.writeBytes m base out) x = Memory.read m x
  | [], _, _, _, _ => rfl
  | _ :: out, m, base, x, h => by
    simp only [List.length_cons] at h
    rw [Memory.writeBytes, Memory.read_writeBytes_outside out (by omega), Memory.read_write_other (by omega)]

/-- COPY leaves every address outside the bytes it writes alone. -/
theorem read_copyBytes_outside : ∀ (n : Nat) {m : List Host.Cell} {base o off x : Nat},
    (x < base + o ∨ base + o + n ≤ x) → Memory.read (copyBytes m base o off n) x = Memory.read m x
  | 0, _, _, _, _, _, _ => rfl
  | n + 1, m, base, o, off, x, h => by
    rw [copyBytes, read_copyBytes_outside n (by omega), Memory.read_write_other (by omega)]

/-- Memory after reset is in its canonical form. -/
theorem reset_memory_wf : Memory.wf State.reset.mem = true := rfl

end Sys2Proof.Machine
end

