-- ==== Sys2Proof/Laws/Operations.lean ====
section
/-! SUPPORT. One lemma for each shared operation of the machine, saying once everything it can do, so that a proof cites it
and does not unfold the operation. -/

namespace Sys2Proof

/-- The registry code of a variant names that variant. -/
@[simp] theorem variantOfCode_codeOfVariant (v : Variant) : variantOfCode (codeOfVariant v) = some v := by
  cases v <;> rfl

/-- The OP field of a command word. -/
@[simp] theorem cmdOp_commandWord (op code : Nibble) : cmdOp (commandWord op code) = op := by
  ext i hi
  simp only [cmdOp, commandWord, BitVec.getElem_extractLsb', BitVec.getLsbD_append]
  simp [show i < 4 by omega, ← BitVec.getLsbD_eq_getElem]

/-- The VARIANT field of a command word. -/
@[simp] theorem cmdVariant_commandWord (op code : Nibble) : cmdVariant (commandWord op code) = code := by
  ext i hi
  simp only [cmdVariant, commandWord, BitVec.getElem_extractLsb', BitVec.getLsbD_append]
  simp [show i < 4 by omega, ← BitVec.getLsbD_eq_getElem]

/-- The reserved bits of a command word. -/
@[simp] theorem cmdReserved_commandWord (op code : Nibble) : cmdReserved (commandWord op code) = 0 := by
  ext i hi
  simp only [cmdReserved, commandWord, BitVec.getElem_extractLsb', BitVec.getLsbD_append]
  simp [show ¬(8 + i < 4) by omega, show ¬(8 + i - 4 < 4) by omega]

/-- The big-endian value of a u16's bytes is the u16 (R7). -/
@[simp] theorem bigEndian_be16 (x : Half) : bigEndian (be16 x) = x.toNat := by
  have := x.isLt
  simp only [bigEndian, be16, bigEndianFrom, BitVec.extractLsb'_toNat, Nat.shiftRight_eq_div_pow]
  omega

/-- The big-endian value of a u32's bytes is the u32 (R7). -/
@[simp] theorem bigEndian_be32 (x : Word) : bigEndian (be32 x) = x.toNat := by
  have := x.isLt
  simp only [bigEndian, be32, bigEndianFrom, BitVec.extractLsb'_toNat, Nat.shiftRight_eq_div_pow]
  omega

/-- A match has at most two dictionary entries and at most one byte (R50, R51, R52). -/
theorem tokenCode_matchInstr_lengths (coding : Coding) (n d : Nat) :
    (tokenCode (matchInstr coding n d)).dict.length ≤ 2 ∧ (tokenCode (matchInstr coding n d)).bytes.length ≤ 1 := by
  cases coding <;> simp only [matchInstr] <;> (repeat' split) <;> simp [tokenCode, encode, matchCode]

end Sys2Proof

namespace Sys2Proof.Machine

/-- A flag word has at least 8 bits (R45). -/
theorem State.fw_ge (s : State) : 8 ≤ s.fw := by
  unfold State.fw
  cases s.variant <;> decide

/-! ### The register window -/

/-- The window offset of a register's address is the register's offset. -/
@[simp] theorem regOffset?_regAddress (p : Params) (off : BitVec 8) : regOffset? p (regAddress p off) = some off := by
  have hp : (regAddress p off).extractLsb' 8 24 = p.mmioPage := by
    ext i hi
    simp only [regAddress, BitVec.getElem_extractLsb', BitVec.getLsbD_append]
    simp [show ¬(8 + i < 8) by omega, ← BitVec.getLsbD_eq_getElem]
  have ho : (regAddress p off).extractLsb' 0 8 = off := by
    ext i hi
    simp only [regAddress, BitVec.getElem_extractLsb', BitVec.getLsbD_append]
    simp [show i < 8 by omega, ← BitVec.getLsbD_eq_getElem]
  rw [regOffset?, if_pos hp, ho]

/-- Which accesses are aligned 32-bit ones. -/
theorem alignedWord_iff (width : AccessWidth) (off : BitVec 8) :
    alignedWord width off = true ↔ width = .word ∧ off.toNat % 4 = 0 := by
  simp [alignedWord, ← BitVec.toNat_inj, BitVec.extractLsb'_toNat]

/-! ### Tokens -/

/-- When nothing stands in a token's way. -/
theorem tokenGuard_eq_none_iff (coding : Option Coding) (s : State) :
    tokenGuard coding s = none ↔
      s.phase = .runDecode ∧ s.outputFits = true ∧ s.dec.o < s.dec.n ∧ (coding = none ∨ coding = some s.coding) := by
  unfold tokenGuard
  split
  · simp_all
  · split
    · simp_all
    · split
      · simp_all
      · split
        · simp_all
        · simp_all; tauto

/-- A token that can execute passes the guard, if it is of the running coding or of every coding. -/
theorem TokenReady.guard {s : State} (h : TokenReady s) {coding : Option Coding}
    (hc : coding = none ∨ coding = some s.coding) : tokenGuard coding s = none :=
  (tokenGuard_eq_none_iff coding s).2
    ⟨h.running, by simp [State.outputFits, h.legal, h.fits], h.room, hc⟩

/-- CHECK_MATCH passes exactly where both of its conditions do. -/
theorem checkMatch_eq_none_iff (n off : Nat) (s : State) :
    checkMatch n off s = none ↔ off < s.dec.o ∧ s.dec.o + n ≤ s.dec.n := by
  unfold checkMatch
  split
  · simp; omega
  · split <;> simp <;> omega

/-- Everything a match token can do. -/
theorem doMatch_cases (coding : Coding) (n : Nat) (off : Offset) (s : State) :
    (∃ r, tokenGuard (some coding) s = some r ∧ doMatch coding n off s = .refused r) ∨
    (tokenGuard (some coding) s = none ∧
      ((s.dec.o ≤ off.toNat ∧ doMatch coding n off s = .next (s.errorEntry .beforeStart)) ∨
       (off.toNat < s.dec.o ∧ s.dec.n < s.dec.o + n ∧
          doMatch coding n off s = .next (s.errorEntry .pastDecodedSize)) ∨
       (off.toNat < s.dec.o ∧ s.dec.o + n ≤ s.dec.n ∧ doMatch coding n off s = .next (s.putMatch n off.toNat)))) := by
  unfold doMatch State.runMatch checkMatch
  cases hg : tokenGuard (some coding) s with
  | some r => exact .inl ⟨r, rfl, rfl⟩
  | none =>
    refine .inr ⟨rfl, ?_⟩
    by_cases h1 : s.dec.o ≤ off.toNat
    · exact .inl ⟨h1, by simp [h1]⟩
    · by_cases h2 : s.dec.n < s.dec.o + n
      · exact .inr (.inl ⟨by omega, h2, by simp [h1, h2]⟩)
      · exact .inr (.inr ⟨by omega, by omega, by simp [h1, h2]⟩)

/-! ### The match finder's state -/

/-- A FIND writes SEED and SKIP and nothing else (R65). -/
theorem State.noteFind_eq (c : Nat) (s : State) :
    s.noteFind c = { s with seed := (s.noteFind c).seed, skip := (s.noteFind c).skip } := by
  unfold State.noteFind
  split <;> rfl

/-- The FINDs of a round write SEED and SKIP and nothing else (R65). -/
theorem State.noteFinds_eq (s : State) :
    s.noteFinds = { s with seed := s.noteFinds.seed, skip := s.noteFinds.skip } := by
  unfold State.noteFinds
  dsimp only
  split
  · exact State.noteFind_eq _ _
  · rw [State.noteFind_eq (s.enc.c + 1), State.noteFind_eq s.enc.c s]

/-! ### Buffers and flag bits -/

/-- Appending entries that fit puts them last in DICT, in order. -/
theorem appendAllDict_fits : ∀ (l : List Half) (s : State), s.dict.length + l.length ≤ s.params.dictCap.toNat →
    appendAllDict l s = .ok { s with dict := s.dict ++ l }
  | [], s, _ => by simp [appendAllDict]
  | x :: l, s, h => by
    simp only [List.length_cons] at h
    rw [appendAllDict, appendDict, if_pos (by omega)]
    simp only
    rw [appendAllDict_fits l _ (by simp; omega)]
    simp

/-- Appending bytes that fit puts them last in BYTES, in order. -/
theorem appendAllBytes_fits : ∀ (l : List Byte) (s : State), s.bytes.length + l.length ≤ s.params.bytesCap.toNat →
    appendAllBytes l s = .ok { s with bytes := s.bytes ++ l }
  | [], s, _ => by simp [appendAllBytes]
  | x :: l, s, h => by
    simp only [List.length_cons] at h
    rw [appendAllBytes, appendBytes, if_pos (by omega)]
    simp only
    rw [appendAllBytes_fits l _ (by simp; omega)]
    simp

/-! ### The encoder after a token -/

@[simp] theorem afterToken_mem (s : State) (t : Token) : (afterToken s t).mem = s.mem := rfl
@[simp] theorem afterToken_params (s : State) (t : Token) : (afterToken s t).params = s.params := rfl
@[simp] theorem afterToken_status (s : State) (t : Token) : (afterToken s t).status = s.status := rfl
@[simp] theorem afterToken_phase (s : State) (t : Token) : (afterToken s t).phase = s.phase := rfl
@[simp] theorem afterToken_variant (s : State) (t : Token) : (afterToken s t).variant = s.variant := rfl
@[simp] theorem afterToken_latSrcAddr (s : State) (t : Token) : (afterToken s t).latSrcAddr = s.latSrcAddr := rfl
@[simp] theorem afterToken_latSrcLen (s : State) (t : Token) : (afterToken s t).latSrcLen = s.latSrcLen := rfl

/-- A token that raises nothing leaves every buffer within its capacity. -/
theorem tokenRaises_none_room {s : State} {t : Token} (h : tokenRaises s t = none) :
    s.dict.length + (dictOf s.coding [t]).length ≤ s.params.dictCap.toNat ∧
      s.bytes.length + (bytesOf s.coding [t]).length ≤ s.params.bytesCap.toNat ∧
      (s.enc.fbits + 1 = s.fw → s.flags.length < s.params.flagsCap.toNat) := by
  unfold tokenRaises at h
  split at h
  · simp at h
  · split at h
    · simp at h
    · split at h
      · simp at h
      · refine ⟨by omega, by omega, ?_⟩
        intro hf
        by_contra hn
        exact absurd (And.intro hf (Nat.le_of_not_lt hn)) (by assumption)

/-! ### The decoder's reads -/

/-- Everything a read of a stream can do: an error where fewer than `w` bytes are left, and otherwise the big-endian value
of the next `w` bytes with the stream's cursor moved past them. -/
theorem readStream_cases (st : InStream) (w : Nat) (e : ErrorCause) (s : State) :
    (cursorLimit s.dec (cursorOf s.layout st) < cursorValue s.dec (cursorOf s.layout st) + w ∧
      readStream st w e s = .error e) ∨
    (cursorValue s.dec (cursorOf s.layout st) + w ≤ cursorLimit s.dec (cursorOf s.layout st) ∧
      readStream st w e s =
        .ok (containerField s (cursorValue s.dec (cursorOf s.layout st)) w,
          { s with dec :=
              setCursor (cursorOf s.layout st) (cursorValue s.dec (cursorOf s.layout st) + w) s.dec })) := by
  unfold readStream
  by_cases h : cursorLimit s.dec (cursorOf s.layout st) < cursorValue s.dec (cursorOf s.layout st) + w
  · exact .inl ⟨h, by simp [h]⟩
  · exact .inr ⟨by omega, by simp [h]⟩

/-- Moving a cursor leaves the output cursor, the decoded size and the flag word alone. -/
@[simp] theorem setCursor_o (c : Cursor) (x : Nat) (d : Decoder) : (setCursor c x d).o = d.o := by cases c <;> rfl
@[simp] theorem setCursor_n (c : Cursor) (x : Nat) (d : Decoder) : (setCursor c x d).n = d.n := by cases c <;> rfl
@[simp] theorem setCursor_word (c : Cursor) (x : Nat) (d : Decoder) : (setCursor c x d).word = d.word := by
  cases c <;> rfl
@[simp] theorem setCursor_left (c : Cursor) (x : Nat) (d : Decoder) : (setCursor c x d).left = d.left := by
  cases c <;> rfl

/-- Moving a cursor leaves the ends of the cursors' ranges alone. -/
@[simp] theorem cursorLimit_setCursor (c c' : Cursor) (x : Nat) (d : Decoder) :
    cursorLimit (setCursor c x d) c' = cursorLimit d c' := by
  cases c <;> cases c' <;> rfl

/-- A cursor moved stands where it was moved to. -/
@[simp] theorem cursorValue_setCursor (c : Cursor) (x : Nat) (d : Decoder) : cursorValue (setCursor c x d) c = x := by
  cases c <;> rfl

/-! ### Commands -/

/-- Everything a write of a word to CMD can do. -/
theorem writeCmd_cases (w : Word) (s : State) :
    (s.busy = true ∧ s.writeCmd w = s) ∨
    (s.busy = false ∧ cmdOp w = 0 ∧ cmdReserved w = 0 ∧ s.writeCmd w = s.clearStatus) ∨
    (s.busy = false ∧ ¬(cmdOp w = 0 ∧ cmdReserved w = 0) ∧
      ((∃ e, (s.beginCommand w).startChecks w = some e ∧ s.writeCmd w = (s.beginCommand w).errorEntry e) ∨
       ((s.beginCommand w).startChecks w = none ∧ cmdOp w = 1 ∧ s.writeCmd w = (s.beginCommand w).startEncode) ∨
       ((s.beginCommand w).startChecks w = none ∧ cmdOp w ≠ 1 ∧ s.writeCmd w = (s.beginCommand w).startDecode))) := by
  unfold State.writeCmd State.checkAndStart
  cases hb : s.busy with
  | true => exact .inl ⟨rfl, by simp⟩
  | false =>
    by_cases hc : cmdOp w = 0 ∧ cmdReserved w = 0
    · exact .inr (.inl ⟨rfl, hc.1, hc.2, by simp [hc]⟩)
    · refine .inr (.inr ⟨rfl, hc, ?_⟩)
      cases he : (s.beginCommand w).startChecks w with
      | some e => exact .inl ⟨e, rfl, by rw [if_neg (by simp), if_neg hc]⟩
      | none =>
        by_cases ho : cmdOp w = 1
        · exact .inr (.inl ⟨rfl, ho, by rw [if_neg (by simp), if_neg hc]; simp [ho]⟩)
        · exact .inr (.inr ⟨rfl, ho, by rw [if_neg (by simp), if_neg hc]; exact if_neg ho⟩)

/-! ### The engine's step and the machine's -/

/-- Where the host has nothing to do the engine steps. -/
theorem step_of_quiet {s : State} (h : s.host = []) : step s = engineStep s := by
  simp [step, machineStep, h]

/-- The engine's step by phase. -/
theorem engineStep_idle {s : State} (h : s.phase = .idle) : engineStep s = .next s := by simp [engineStep, h]
theorem engineStep_encode {s : State} (h : s.phase = .runEncode) : engineStep s = encodeStep s := by
  simp [engineStep, h]
theorem engineStep_decode {s : State} (h : s.phase = .runDecode) : engineStep s = decodeStep s := by
  simp [engineStep, h]

/-- Everything a step of a running DECODE can do. -/
theorem decodeStep_cases (s : State) :
    ((s.inputFits && s.outputFits) = false ∧ decodeStep s = .refused .engineOutsideRegions) ∨
    ((s.inputFits && s.outputFits) = true ∧
      ((s.dec.n ≤ s.dec.o ∧ decodeStep s = .next (s.complete s.dec.n)) ∨
       (s.dec.o < s.dec.n ∧ s.dec.left = 0 ∧
          ((∃ e, readFlagWord s = .error e ∧ decodeStep s = .next (s.errorEntry e)) ∨
           (∃ t, readFlagWord s = .ok t ∧ decodeStep s = .next t))) ∨
       (s.dec.o < s.dec.n ∧ s.dec.left ≠ 0 ∧
          ((∃ e, fetchToken s = .error e ∧ decodeStep s = .next (s.errorEntry e)) ∨
           (∃ i t, fetchToken s = .ok (i, t) ∧ decodeStep s = exec i t))))) := by
  unfold decodeStep decoderState
  cases hf : (s.inputFits && s.outputFits) with
  | false => exact .inl ⟨rfl, by simp⟩
  | true =>
    refine .inr ⟨rfl, ?_⟩
    by_cases hn : s.dec.n ≤ s.dec.o
    · exact .inl ⟨hn, by simp [hn]⟩
    · by_cases hl : s.dec.left = 0
      · refine .inr (.inl ⟨by omega, hl, ?_⟩)
        cases hr : readFlagWord s with
        | error e => exact .inl ⟨e, rfl, by simp [hn, hl]⟩
        | ok t => exact .inr ⟨t, rfl, by simp [hn, hl]⟩
      · refine .inr (.inr ⟨by omega, hl, ?_⟩)
        cases hr : fetchToken s with
        | error e => exact .inl ⟨e, rfl, by simp [hn, hl]⟩
        | ok p => exact .inr ⟨p.1, p.2, rfl, by simp [hn, hl]⟩

/-- Everything a step of a running ENCODE can do. -/
theorem encodeStep_cases (s : State) :
    (s.regionsLegal = false ∧ encodeStep s = .refused .engineOutsideRegions) ∨
    (s.regionsLegal = true ∧ s.enc.c < s.latSrcLen.toNat ∧ encodeStep s = .next (settle (encodeRound s))) ∨
    (s.regionsLegal = true ∧ s.latSrcLen.toNat ≤ s.enc.c ∧ encodeStep s = .next (settle (finishEncode s))) := by
  unfold encodeStep
  cases hr : s.regionsLegal with
  | false => exact .inl ⟨rfl, by simp⟩
  | true =>
    by_cases hc : s.enc.c < s.latSrcLen.toNat
    · exact .inr (.inl ⟨rfl, hc, by simp [hc]⟩)
    · exact .inr (.inr ⟨rfl, by omega, by simp [hc]⟩)

/-- Every instruction either goes on or is refused by name; none faults. -/
theorem exec_ne_fault (i : Instr) (s : State) (f : Fault) : exec i s ≠ .fault f := by
  have hm : ∀ coding n off, doMatch coding n off s ≠ .fault f := by
    intro coding n off
    rcases doMatch_cases coding n off s with ⟨r, -, h⟩ | ⟨-, ⟨-, h⟩ | ⟨-, -, h⟩ | ⟨-, -, h⟩⟩ <;> simp [h]
  cases i with
  | lit b =>
    change execLit b s ≠ _
    unfold execLit
    split <;> simp
  | matchYayS nib off =>
    change execMatchYayS nib off s ≠ _
    unfold execMatchYayS
    split
    · simp
    · exact hm _ _ _
  | matchRvlS nib off =>
    change execMatchRvlS nib off s ≠ _
    unfold execMatchRvlS
    split
    · simp
    · exact hm _ _ _
  | matchMio nib off => exact hm _ _ _
  | matchYayL off e => exact hm _ _ _
  | matchRvlM off e => exact hm _ _ _
  | matchRvlL off x => exact hm _ _ _
  | clear variant => simp [exec, execClear]
  | encodeMio0 => simp [exec, execEncodeMio0]
  | encodeSmsr00 => simp [exec, execEncodeSmsr00]
  | encodeYay0 => simp [exec, execEncodeYay0]
  | encodeYaz0 => simp [exec, execEncodeYaz0]
  | encodeRvl0 => simp [exec, execEncodeRvl0]
  | decodeMio0 => simp [exec, execDecodeMio0]
  | decodeSmsr00 => simp [exec, execDecodeSmsr00]
  | decodeYay0 => simp [exec, execDecodeYay0]
  | decodeYaz0 => simp [exec, execDecodeYaz0]
  | decodeRvl0 => simp [exec, execDecodeRvl0]

/-- Reading back a byte sequence just written inside the address space. -/
theorem Memory.read_writeBytes_inside : ∀ (out : List Byte) {m : List Host.Cell} {base k : Nat},
    base + out.length ≤ Config.addressSpace → Memory.wf m = true → k < out.length →
    Memory.read (Memory.writeBytes m base out) (base + k) = out.getD k 0
  | [], _, _, _, _, _, hk => by simp at hk
  | v :: out, m, base, 0, h, hm, _ => by
    rw [Memory.writeBytes, Memory.read_writeBytes_outside out (by omega)]
    exact Memory.read_write_same hm
  | v :: out, m, base, k + 1, h, hm, hk => by
    simp only [List.length_cons] at h hk
    rw [Memory.writeBytes, show base + (k + 1) = base + 1 + k by omega,
      Memory.read_writeBytes_inside out (by omega) (Memory.write_wf (by omega) hm) (by omega)]
    simp

end Sys2Proof.Machine
end

