-- ==== Sys2Proof/Laws/PerInstr.lean ====
section
/-! SUPPORT. Statements for all instructions, one lemma for each constructor of Instr. CodeShape says what kind of encoded
object an instruction is and which elements it has (spec/30_encoding.md R46 to R53, R56). -/

namespace Sys2Proof

/-- The nibble of a descriptor. -/
@[simp] theorem descNibble_descriptor (nib : Nibble) (off : Offset) : descNibble (descriptor nib off) = nib := by
  ext i hi
  simp only [descNibble, descriptor, BitVec.getElem_extractLsb', BitVec.getLsbD_append]
  simp [show ¬(12 + i < 12) by omega, ← BitVec.getLsbD_eq_getElem]

/-- The offset field of a descriptor. -/
@[simp] theorem descOffset_descriptor (nib : Nibble) (off : Offset) : descOffset (descriptor nib off) = off := by
  ext i hi
  simp only [descOffset, descriptor, BitVec.getElem_extractLsb', BitVec.getLsbD_append]
  simp [hi, ← BitVec.getLsbD_eq_getElem]

namespace Laws.CodeShape

/-- A command has its reserved bits 0 and its OP in 0..2. A token has 1 to 4 bytes after its flag bit; the bit is 1 exactly
where there is no descriptor; and a match that is well formed has the escape byte or the extra halfword its nibble calls
for, and no other. -/
def Statement (i : Instr) : Prop :=
  match encode i with
  | .command w => i.coding? = none ∧ cmdReserved w = 0 ∧ (cmdOp w).toNat ≤ 2
  | .token t =>
    (t.flag = true ↔ t.dict = []) ∧ 1 ≤ (inlineBytes t).length ∧ (inlineBytes t).length ≤ 4 ∧
      (i.wf = true → ∀ coding d extra, i.coding? = some coding → t.dict = d :: extra →
        extraOf coding (descNibble d) =
          (if t.bytes.length = 1 then .escape else if extra.length = 1 then .half else .none))

theorem clear (variant : Nibble) : Statement (.clear variant) := by simp [Statement, encode, Instr.coding?]
theorem encodeMio0 : Statement .encodeMio0 := by simp [Statement, encode, Instr.coding?]
theorem encodeSmsr00 : Statement .encodeSmsr00 := by simp [Statement, encode, Instr.coding?]
theorem encodeYay0 : Statement .encodeYay0 := by simp [Statement, encode, Instr.coding?]
theorem encodeYaz0 : Statement .encodeYaz0 := by simp [Statement, encode, Instr.coding?]
theorem encodeRvl0 : Statement .encodeRvl0 := by simp [Statement, encode, Instr.coding?]
theorem decodeMio0 : Statement .decodeMio0 := by simp [Statement, encode, Instr.coding?]
theorem decodeSmsr00 : Statement .decodeSmsr00 := by simp [Statement, encode, Instr.coding?]
theorem decodeYay0 : Statement .decodeYay0 := by simp [Statement, encode, Instr.coding?]
theorem decodeYaz0 : Statement .decodeYaz0 := by simp [Statement, encode, Instr.coding?]
theorem decodeRvl0 : Statement .decodeRvl0 := by simp [Statement, encode, Instr.coding?]

theorem lit (b : Byte) : Statement (.lit b) := by
  simp [Statement, encode, literalCode, inlineBytes]

theorem matchMio (nib : Nibble) (off : Offset) : Statement (.matchMio nib off) := by
  simp only [Statement, encode, matchCode, inlineBytes, Instr.coding?]
  refine ⟨by simp, by simp [be16], by simp [be16], ?_⟩
  rintro - coding d extra hc hd
  obtain ⟨rfl, rfl⟩ := List.cons.inj hd
  cases hc
  simp [extraOf]

theorem matchYayS (nib : Nibble) (off : Offset) : Statement (.matchYayS nib off) := by
  simp only [Statement, encode, matchCode, inlineBytes, Instr.coding?]
  refine ⟨by simp, by simp [be16], by simp [be16], ?_⟩
  intro hw coding d extra hc hd
  obtain ⟨rfl, rfl⟩ := List.cons.inj hd
  cases hc
  have h0 : nib ≠ 0 := by rintro rfl; simp [Instr.wf] at hw
  simpa [extraOf] using h0

theorem matchYayL (off : Offset) (e : Byte) : Statement (.matchYayL off e) := by
  simp only [Statement, encode, matchCode, inlineBytes, Instr.coding?]
  refine ⟨by simp, by simp [be16], by simp [be16], ?_⟩
  rintro - coding d extra hc hd
  obtain ⟨rfl, rfl⟩ := List.cons.inj hd
  cases hc
  simp [extraOf]

theorem matchRvlS (nib : Nibble) (off : Offset) : Statement (.matchRvlS nib off) := by
  simp only [Statement, encode, matchCode, inlineBytes, Instr.coding?]
  refine ⟨by simp, by simp [be16], by simp [be16], ?_⟩
  intro hw coding d extra hc hd
  obtain ⟨rfl, rfl⟩ := List.cons.inj hd
  cases hc
  have h0 : nib ≠ 0 := by rintro rfl; simp [Instr.wf] at hw
  have h1 : nib ≠ 1 := by rintro rfl; simp [Instr.wf] at hw
  simp_all [extraOf]

theorem matchRvlM (off : Offset) (e : Byte) : Statement (.matchRvlM off e) := by
  simp only [Statement, encode, matchCode, inlineBytes, Instr.coding?]
  refine ⟨by simp, by simp [be16], by simp [be16], ?_⟩
  rintro - coding d extra hc hd
  obtain ⟨rfl, rfl⟩ := List.cons.inj hd
  cases hc
  simp [extraOf]

theorem matchRvlL (off : Offset) (x : Half) : Statement (.matchRvlL off x) := by
  simp only [Statement, encode, matchCode, inlineBytes, Instr.coding?]
  refine ⟨by simp, by simp [be16], by simp [be16], ?_⟩
  rintro - coding d extra hc hd
  obtain ⟨rfl, rfl⟩ := List.cons.inj hd
  cases hc
  simp [extraOf]

end Laws.CodeShape

end Sys2Proof
end

