-- ==== Sys2Proof/Laws/State.lean ====
section
/-! SUPPORT. The named updates of State, field by field: one lemma per field per update, so that no proof unfolds a
record update. -/

namespace Sys2Proof.Machine

variable (s : State)

/-! ### State.release -/

@[simp] theorem State.release_status : s.release.status = s.status := rfl
@[simp] theorem State.release_srcAddr : s.release.srcAddr = s.srcAddr := rfl
@[simp] theorem State.release_srcLen : s.release.srcLen = s.srcLen := rfl
@[simp] theorem State.release_dstAddr : s.release.dstAddr = s.dstAddr := rfl
@[simp] theorem State.release_dstCap : s.release.dstCap = s.dstCap := rfl
@[simp] theorem State.release_outLen : s.release.outLen = s.outLen := rfl
@[simp] theorem State.release_errInfo : s.release.errInfo = s.errInfo := rfl
@[simp] theorem State.release_litCount : s.release.litCount = s.litCount := rfl
@[simp] theorem State.release_matchCount : s.release.matchCount = s.matchCount := rfl
@[simp] theorem State.release_phase : s.release.phase = s.phase := rfl
@[simp] theorem State.release_variant : s.release.variant = s.variant := rfl
@[simp] theorem State.release_latSrcAddr : s.release.latSrcAddr = s.latSrcAddr := rfl
@[simp] theorem State.release_latSrcLen : s.release.latSrcLen = s.latSrcLen := rfl
@[simp] theorem State.release_latDstAddr : s.release.latDstAddr = s.latDstAddr := rfl
@[simp] theorem State.release_latDstCap : s.release.latDstCap = s.latDstCap := rfl
@[simp] theorem State.release_flags : s.release.flags = [] := rfl
@[simp] theorem State.release_dict : s.release.dict = [] := rfl
@[simp] theorem State.release_bytes : s.release.bytes = [] := rfl
@[simp] theorem State.release_enc : s.release.enc = s.enc := rfl
@[simp] theorem State.release_seed : s.release.seed = s.seed := rfl
@[simp] theorem State.release_skip : s.release.skip = s.skip := rfl
@[simp] theorem State.release_dec : s.release.dec = s.dec := rfl
@[simp] theorem State.release_mem : s.release.mem = s.mem := rfl
@[simp] theorem State.release_params : s.release.params = s.params := rfl
@[simp] theorem State.release_host : s.release.host = s.host := rfl
@[simp] theorem State.release_readData : s.release.readData = s.readData := rfl
@[simp] theorem State.release_fresh : s.release.fresh = s.fresh := rfl
@[simp] theorem State.release_litSeen : s.release.litSeen = s.litSeen := rfl
@[simp] theorem State.release_matchSeen : s.release.matchSeen = s.matchSeen := rfl

/-! ### State.errorEntry -/

@[simp] theorem State.errorEntry_status (e : ErrorCause) : (s.errorEntry e).status = e.status := rfl
@[simp] theorem State.errorEntry_srcAddr (e : ErrorCause) : (s.errorEntry e).srcAddr = s.srcAddr := rfl
@[simp] theorem State.errorEntry_srcLen (e : ErrorCause) : (s.errorEntry e).srcLen = s.srcLen := rfl
@[simp] theorem State.errorEntry_dstAddr (e : ErrorCause) : (s.errorEntry e).dstAddr = s.dstAddr := rfl
@[simp] theorem State.errorEntry_dstCap (e : ErrorCause) : (s.errorEntry e).dstCap = s.dstCap := rfl
@[simp] theorem State.errorEntry_outLen (e : ErrorCause) : (s.errorEntry e).outLen = 0 := rfl
@[simp] theorem State.errorEntry_errInfo (e : ErrorCause) : (s.errorEntry e).errInfo = BitVec.ofNat 32 e.sub := rfl
@[simp] theorem State.errorEntry_litCount (e : ErrorCause) : (s.errorEntry e).litCount = s.litCount := rfl
@[simp] theorem State.errorEntry_matchCount (e : ErrorCause) : (s.errorEntry e).matchCount = s.matchCount := rfl
@[simp] theorem State.errorEntry_phase (e : ErrorCause) : (s.errorEntry e).phase = .idle := rfl
@[simp] theorem State.errorEntry_variant (e : ErrorCause) : (s.errorEntry e).variant = s.variant := rfl
@[simp] theorem State.errorEntry_latSrcAddr (e : ErrorCause) : (s.errorEntry e).latSrcAddr = s.latSrcAddr := rfl
@[simp] theorem State.errorEntry_latSrcLen (e : ErrorCause) : (s.errorEntry e).latSrcLen = s.latSrcLen := rfl
@[simp] theorem State.errorEntry_latDstAddr (e : ErrorCause) : (s.errorEntry e).latDstAddr = s.latDstAddr := rfl
@[simp] theorem State.errorEntry_latDstCap (e : ErrorCause) : (s.errorEntry e).latDstCap = s.latDstCap := rfl
@[simp] theorem State.errorEntry_flags (e : ErrorCause) : (s.errorEntry e).flags = [] := rfl
@[simp] theorem State.errorEntry_dict (e : ErrorCause) : (s.errorEntry e).dict = [] := rfl
@[simp] theorem State.errorEntry_bytes (e : ErrorCause) : (s.errorEntry e).bytes = [] := rfl
@[simp] theorem State.errorEntry_enc (e : ErrorCause) : (s.errorEntry e).enc = s.enc := rfl
@[simp] theorem State.errorEntry_seed (e : ErrorCause) : (s.errorEntry e).seed = s.seed := rfl
@[simp] theorem State.errorEntry_skip (e : ErrorCause) : (s.errorEntry e).skip = s.skip := rfl
@[simp] theorem State.errorEntry_dec (e : ErrorCause) : (s.errorEntry e).dec = s.dec := rfl
@[simp] theorem State.errorEntry_mem (e : ErrorCause) : (s.errorEntry e).mem = s.mem := rfl
@[simp] theorem State.errorEntry_params (e : ErrorCause) : (s.errorEntry e).params = s.params := rfl
@[simp] theorem State.errorEntry_host (e : ErrorCause) : (s.errorEntry e).host = s.host := rfl
@[simp] theorem State.errorEntry_readData (e : ErrorCause) : (s.errorEntry e).readData = s.readData := rfl
@[simp] theorem State.errorEntry_fresh (e : ErrorCause) : (s.errorEntry e).fresh = s.fresh := rfl
@[simp] theorem State.errorEntry_litSeen (e : ErrorCause) : (s.errorEntry e).litSeen = s.litSeen := rfl
@[simp] theorem State.errorEntry_matchSeen (e : ErrorCause) : (s.errorEntry e).matchSeen = s.matchSeen := rfl

/-! ### State.clearStatus -/

@[simp] theorem State.clearStatus_status : s.clearStatus.status = 0 := rfl
@[simp] theorem State.clearStatus_srcAddr : s.clearStatus.srcAddr = s.srcAddr := rfl
@[simp] theorem State.clearStatus_srcLen : s.clearStatus.srcLen = s.srcLen := rfl
@[simp] theorem State.clearStatus_dstAddr : s.clearStatus.dstAddr = s.dstAddr := rfl
@[simp] theorem State.clearStatus_dstCap : s.clearStatus.dstCap = s.dstCap := rfl
@[simp] theorem State.clearStatus_outLen : s.clearStatus.outLen = 0 := rfl
@[simp] theorem State.clearStatus_errInfo : s.clearStatus.errInfo = 0 := rfl
@[simp] theorem State.clearStatus_litCount : s.clearStatus.litCount = 0 := rfl
@[simp] theorem State.clearStatus_matchCount : s.clearStatus.matchCount = 0 := rfl
@[simp] theorem State.clearStatus_phase : s.clearStatus.phase = s.phase := rfl
@[simp] theorem State.clearStatus_variant : s.clearStatus.variant = s.variant := rfl
@[simp] theorem State.clearStatus_latSrcAddr : s.clearStatus.latSrcAddr = s.latSrcAddr := rfl
@[simp] theorem State.clearStatus_latSrcLen : s.clearStatus.latSrcLen = s.latSrcLen := rfl
@[simp] theorem State.clearStatus_latDstAddr : s.clearStatus.latDstAddr = s.latDstAddr := rfl
@[simp] theorem State.clearStatus_latDstCap : s.clearStatus.latDstCap = s.latDstCap := rfl
@[simp] theorem State.clearStatus_flags : s.clearStatus.flags = s.flags := rfl
@[simp] theorem State.clearStatus_dict : s.clearStatus.dict = s.dict := rfl
@[simp] theorem State.clearStatus_bytes : s.clearStatus.bytes = s.bytes := rfl
@[simp] theorem State.clearStatus_enc : s.clearStatus.enc = s.enc := rfl
@[simp] theorem State.clearStatus_seed : s.clearStatus.seed = s.seed := rfl
@[simp] theorem State.clearStatus_skip : s.clearStatus.skip = s.skip := rfl
@[simp] theorem State.clearStatus_dec : s.clearStatus.dec = s.dec := rfl
@[simp] theorem State.clearStatus_mem : s.clearStatus.mem = s.mem := rfl
@[simp] theorem State.clearStatus_params : s.clearStatus.params = s.params := rfl
@[simp] theorem State.clearStatus_host : s.clearStatus.host = s.host := rfl
@[simp] theorem State.clearStatus_readData : s.clearStatus.readData = s.readData := rfl
@[simp] theorem State.clearStatus_fresh : s.clearStatus.fresh = s.fresh := rfl
@[simp] theorem State.clearStatus_litSeen : s.clearStatus.litSeen = s.litSeen := rfl
@[simp] theorem State.clearStatus_matchSeen : s.clearStatus.matchSeen = s.matchSeen := rfl

/-! ### State.complete -/

@[simp] theorem State.complete_status (n : Nat) : (s.complete n).status = statusDone := rfl
@[simp] theorem State.complete_srcAddr (n : Nat) : (s.complete n).srcAddr = s.srcAddr := rfl
@[simp] theorem State.complete_srcLen (n : Nat) : (s.complete n).srcLen = s.srcLen := rfl
@[simp] theorem State.complete_dstAddr (n : Nat) : (s.complete n).dstAddr = s.dstAddr := rfl
@[simp] theorem State.complete_dstCap (n : Nat) : (s.complete n).dstCap = s.dstCap := rfl
@[simp] theorem State.complete_outLen (n : Nat) : (s.complete n).outLen = BitVec.ofNat 32 n := rfl
@[simp] theorem State.complete_errInfo (n : Nat) : (s.complete n).errInfo = s.errInfo := rfl
@[simp] theorem State.complete_litCount (n : Nat) : (s.complete n).litCount = s.litCount := rfl
@[simp] theorem State.complete_matchCount (n : Nat) : (s.complete n).matchCount = s.matchCount := rfl
@[simp] theorem State.complete_phase (n : Nat) : (s.complete n).phase = .idle := rfl
@[simp] theorem State.complete_variant (n : Nat) : (s.complete n).variant = s.variant := rfl
@[simp] theorem State.complete_latSrcAddr (n : Nat) : (s.complete n).latSrcAddr = s.latSrcAddr := rfl
@[simp] theorem State.complete_latSrcLen (n : Nat) : (s.complete n).latSrcLen = s.latSrcLen := rfl
@[simp] theorem State.complete_latDstAddr (n : Nat) : (s.complete n).latDstAddr = s.latDstAddr := rfl
@[simp] theorem State.complete_latDstCap (n : Nat) : (s.complete n).latDstCap = s.latDstCap := rfl
@[simp] theorem State.complete_flags (n : Nat) : (s.complete n).flags = s.flags := rfl
@[simp] theorem State.complete_dict (n : Nat) : (s.complete n).dict = s.dict := rfl
@[simp] theorem State.complete_bytes (n : Nat) : (s.complete n).bytes = s.bytes := rfl
@[simp] theorem State.complete_enc (n : Nat) : (s.complete n).enc = s.enc := rfl
@[simp] theorem State.complete_seed (n : Nat) : (s.complete n).seed = s.seed := rfl
@[simp] theorem State.complete_skip (n : Nat) : (s.complete n).skip = s.skip := rfl
@[simp] theorem State.complete_dec (n : Nat) : (s.complete n).dec = s.dec := rfl
@[simp] theorem State.complete_mem (n : Nat) : (s.complete n).mem = s.mem := rfl
@[simp] theorem State.complete_params (n : Nat) : (s.complete n).params = s.params := rfl
@[simp] theorem State.complete_host (n : Nat) : (s.complete n).host = s.host := rfl
@[simp] theorem State.complete_readData (n : Nat) : (s.complete n).readData = s.readData := rfl
@[simp] theorem State.complete_fresh (n : Nat) : (s.complete n).fresh = s.fresh := rfl
@[simp] theorem State.complete_litSeen (n : Nat) : (s.complete n).litSeen = s.litSeen := rfl
@[simp] theorem State.complete_matchSeen (n : Nat) : (s.complete n).matchSeen = s.matchSeen := rfl

/-! ### State.beginCommand -/

@[simp] theorem State.beginCommand_status (w : Word) : (s.beginCommand w).status = statusBusy := rfl
@[simp] theorem State.beginCommand_srcAddr (w : Word) : (s.beginCommand w).srcAddr = s.srcAddr := rfl
@[simp] theorem State.beginCommand_srcLen (w : Word) : (s.beginCommand w).srcLen = s.srcLen := rfl
@[simp] theorem State.beginCommand_dstAddr (w : Word) : (s.beginCommand w).dstAddr = s.dstAddr := rfl
@[simp] theorem State.beginCommand_dstCap (w : Word) : (s.beginCommand w).dstCap = s.dstCap := rfl
@[simp] theorem State.beginCommand_outLen (w : Word) : (s.beginCommand w).outLen = 0 := rfl
@[simp] theorem State.beginCommand_errInfo (w : Word) : (s.beginCommand w).errInfo = 0 := rfl
@[simp] theorem State.beginCommand_litCount (w : Word) : (s.beginCommand w).litCount = 0 := rfl
@[simp] theorem State.beginCommand_matchCount (w : Word) : (s.beginCommand w).matchCount = 0 := rfl
@[simp] theorem State.beginCommand_phase (w : Word) : (s.beginCommand w).phase = s.phase := rfl
@[simp] theorem State.beginCommand_variant (w : Word) : (s.beginCommand w).variant = (variantOfCode (cmdVariant w)).getD s.variant := rfl
@[simp] theorem State.beginCommand_latSrcAddr (w : Word) : (s.beginCommand w).latSrcAddr = s.srcAddr := rfl
@[simp] theorem State.beginCommand_latSrcLen (w : Word) : (s.beginCommand w).latSrcLen = s.srcLen := rfl
@[simp] theorem State.beginCommand_latDstAddr (w : Word) : (s.beginCommand w).latDstAddr = s.dstAddr := rfl
@[simp] theorem State.beginCommand_latDstCap (w : Word) : (s.beginCommand w).latDstCap = s.dstCap := rfl
@[simp] theorem State.beginCommand_flags (w : Word) : (s.beginCommand w).flags = s.flags := rfl
@[simp] theorem State.beginCommand_dict (w : Word) : (s.beginCommand w).dict = s.dict := rfl
@[simp] theorem State.beginCommand_bytes (w : Word) : (s.beginCommand w).bytes = s.bytes := rfl
@[simp] theorem State.beginCommand_enc (w : Word) : (s.beginCommand w).enc = s.enc := rfl
@[simp] theorem State.beginCommand_seed (w : Word) : (s.beginCommand w).seed = s.seed := rfl
@[simp] theorem State.beginCommand_skip (w : Word) : (s.beginCommand w).skip = s.skip := rfl
@[simp] theorem State.beginCommand_dec (w : Word) : (s.beginCommand w).dec = s.dec := rfl
@[simp] theorem State.beginCommand_mem (w : Word) : (s.beginCommand w).mem = s.mem := rfl
@[simp] theorem State.beginCommand_params (w : Word) : (s.beginCommand w).params = s.params := rfl
@[simp] theorem State.beginCommand_host (w : Word) : (s.beginCommand w).host = s.host := rfl
@[simp] theorem State.beginCommand_readData (w : Word) : (s.beginCommand w).readData = s.readData := rfl
@[simp] theorem State.beginCommand_fresh (w : Word) : (s.beginCommand w).fresh = s.fresh := rfl
@[simp] theorem State.beginCommand_litSeen (w : Word) : (s.beginCommand w).litSeen = 0 := rfl
@[simp] theorem State.beginCommand_matchSeen (w : Word) : (s.beginCommand w).matchSeen = 0 := rfl

/-! ### State.startEncode -/

@[simp] theorem State.startEncode_status : s.startEncode.status = s.status := rfl
@[simp] theorem State.startEncode_srcAddr : s.startEncode.srcAddr = s.srcAddr := rfl
@[simp] theorem State.startEncode_srcLen : s.startEncode.srcLen = s.srcLen := rfl
@[simp] theorem State.startEncode_dstAddr : s.startEncode.dstAddr = s.dstAddr := rfl
@[simp] theorem State.startEncode_dstCap : s.startEncode.dstCap = s.dstCap := rfl
@[simp] theorem State.startEncode_outLen : s.startEncode.outLen = s.outLen := rfl
@[simp] theorem State.startEncode_errInfo : s.startEncode.errInfo = s.errInfo := rfl
@[simp] theorem State.startEncode_litCount : s.startEncode.litCount = s.litCount := rfl
@[simp] theorem State.startEncode_matchCount : s.startEncode.matchCount = s.matchCount := rfl
@[simp] theorem State.startEncode_phase : s.startEncode.phase = .runEncode := rfl
@[simp] theorem State.startEncode_variant : s.startEncode.variant = s.variant := rfl
@[simp] theorem State.startEncode_latSrcAddr : s.startEncode.latSrcAddr = s.latSrcAddr := rfl
@[simp] theorem State.startEncode_latSrcLen : s.startEncode.latSrcLen = s.latSrcLen := rfl
@[simp] theorem State.startEncode_latDstAddr : s.startEncode.latDstAddr = s.latDstAddr := rfl
@[simp] theorem State.startEncode_latDstCap : s.startEncode.latDstCap = s.latDstCap := rfl
@[simp] theorem State.startEncode_flags : s.startEncode.flags = [] := rfl
@[simp] theorem State.startEncode_dict : s.startEncode.dict = [] := rfl
@[simp] theorem State.startEncode_bytes : s.startEncode.bytes = [] := rfl
@[simp] theorem State.startEncode_enc : s.startEncode.enc = ⟨0, 0, 0, 0⟩ := rfl
@[simp] theorem State.startEncode_seed : s.startEncode.seed = s.seed := rfl
@[simp] theorem State.startEncode_skip : s.startEncode.skip = s.skip := rfl
@[simp] theorem State.startEncode_dec : s.startEncode.dec = s.dec := rfl
@[simp] theorem State.startEncode_mem : s.startEncode.mem = s.mem := rfl
@[simp] theorem State.startEncode_params : s.startEncode.params = s.params := rfl
@[simp] theorem State.startEncode_host : s.startEncode.host = s.host := rfl
@[simp] theorem State.startEncode_readData : s.startEncode.readData = s.readData := rfl
@[simp] theorem State.startEncode_fresh : s.startEncode.fresh = s.fresh := rfl
@[simp] theorem State.startEncode_litSeen : s.startEncode.litSeen = s.litSeen := rfl
@[simp] theorem State.startEncode_matchSeen : s.startEncode.matchSeen = s.matchSeen := rfl

/-! ### State.advance -/

@[simp] theorem State.advance_status (n : Nat) : (s.advance n).status = s.status := rfl
@[simp] theorem State.advance_srcAddr (n : Nat) : (s.advance n).srcAddr = s.srcAddr := rfl
@[simp] theorem State.advance_srcLen (n : Nat) : (s.advance n).srcLen = s.srcLen := rfl
@[simp] theorem State.advance_dstAddr (n : Nat) : (s.advance n).dstAddr = s.dstAddr := rfl
@[simp] theorem State.advance_dstCap (n : Nat) : (s.advance n).dstCap = s.dstCap := rfl
@[simp] theorem State.advance_outLen (n : Nat) : (s.advance n).outLen = s.outLen := rfl
@[simp] theorem State.advance_errInfo (n : Nat) : (s.advance n).errInfo = s.errInfo := rfl
@[simp] theorem State.advance_litCount (n : Nat) : (s.advance n).litCount = s.litCount := rfl
@[simp] theorem State.advance_matchCount (n : Nat) : (s.advance n).matchCount = s.matchCount := rfl
@[simp] theorem State.advance_phase (n : Nat) : (s.advance n).phase = s.phase := rfl
@[simp] theorem State.advance_variant (n : Nat) : (s.advance n).variant = s.variant := rfl
@[simp] theorem State.advance_latSrcAddr (n : Nat) : (s.advance n).latSrcAddr = s.latSrcAddr := rfl
@[simp] theorem State.advance_latSrcLen (n : Nat) : (s.advance n).latSrcLen = s.latSrcLen := rfl
@[simp] theorem State.advance_latDstAddr (n : Nat) : (s.advance n).latDstAddr = s.latDstAddr := rfl
@[simp] theorem State.advance_latDstCap (n : Nat) : (s.advance n).latDstCap = s.latDstCap := rfl
@[simp] theorem State.advance_flags (n : Nat) : (s.advance n).flags = s.flags := rfl
@[simp] theorem State.advance_dict (n : Nat) : (s.advance n).dict = s.dict := rfl
@[simp] theorem State.advance_bytes (n : Nat) : (s.advance n).bytes = s.bytes := rfl
@[simp] theorem State.advance_enc (n : Nat) : (s.advance n).enc = { s.enc with c := s.enc.c + n } := rfl
@[simp] theorem State.advance_seed (n : Nat) : (s.advance n).seed = s.seed := rfl
@[simp] theorem State.advance_skip (n : Nat) : (s.advance n).skip = s.skip := rfl
@[simp] theorem State.advance_dec (n : Nat) : (s.advance n).dec = s.dec := rfl
@[simp] theorem State.advance_mem (n : Nat) : (s.advance n).mem = s.mem := rfl
@[simp] theorem State.advance_params (n : Nat) : (s.advance n).params = s.params := rfl
@[simp] theorem State.advance_host (n : Nat) : (s.advance n).host = s.host := rfl
@[simp] theorem State.advance_readData (n : Nat) : (s.advance n).readData = s.readData := rfl
@[simp] theorem State.advance_fresh (n : Nat) : (s.advance n).fresh = s.fresh := rfl
@[simp] theorem State.advance_litSeen (n : Nat) : (s.advance n).litSeen = s.litSeen := rfl
@[simp] theorem State.advance_matchSeen (n : Nat) : (s.advance n).matchSeen = s.matchSeen := rfl

/-! ### State.writeOutput -/

@[simp] theorem State.writeOutput_status (out : List Byte) : (s.writeOutput out).status = s.status := rfl
@[simp] theorem State.writeOutput_srcAddr (out : List Byte) : (s.writeOutput out).srcAddr = s.srcAddr := rfl
@[simp] theorem State.writeOutput_srcLen (out : List Byte) : (s.writeOutput out).srcLen = s.srcLen := rfl
@[simp] theorem State.writeOutput_dstAddr (out : List Byte) : (s.writeOutput out).dstAddr = s.dstAddr := rfl
@[simp] theorem State.writeOutput_dstCap (out : List Byte) : (s.writeOutput out).dstCap = s.dstCap := rfl
@[simp] theorem State.writeOutput_outLen (out : List Byte) : (s.writeOutput out).outLen = s.outLen := rfl
@[simp] theorem State.writeOutput_errInfo (out : List Byte) : (s.writeOutput out).errInfo = s.errInfo := rfl
@[simp] theorem State.writeOutput_litCount (out : List Byte) : (s.writeOutput out).litCount = s.litCount := rfl
@[simp] theorem State.writeOutput_matchCount (out : List Byte) : (s.writeOutput out).matchCount = s.matchCount := rfl
@[simp] theorem State.writeOutput_phase (out : List Byte) : (s.writeOutput out).phase = s.phase := rfl
@[simp] theorem State.writeOutput_variant (out : List Byte) : (s.writeOutput out).variant = s.variant := rfl
@[simp] theorem State.writeOutput_latSrcAddr (out : List Byte) : (s.writeOutput out).latSrcAddr = s.latSrcAddr := rfl
@[simp] theorem State.writeOutput_latSrcLen (out : List Byte) : (s.writeOutput out).latSrcLen = s.latSrcLen := rfl
@[simp] theorem State.writeOutput_latDstAddr (out : List Byte) : (s.writeOutput out).latDstAddr = s.latDstAddr := rfl
@[simp] theorem State.writeOutput_latDstCap (out : List Byte) : (s.writeOutput out).latDstCap = s.latDstCap := rfl
@[simp] theorem State.writeOutput_flags (out : List Byte) : (s.writeOutput out).flags = s.flags := rfl
@[simp] theorem State.writeOutput_dict (out : List Byte) : (s.writeOutput out).dict = s.dict := rfl
@[simp] theorem State.writeOutput_bytes (out : List Byte) : (s.writeOutput out).bytes = s.bytes := rfl
@[simp] theorem State.writeOutput_enc (out : List Byte) : (s.writeOutput out).enc = s.enc := rfl
@[simp] theorem State.writeOutput_seed (out : List Byte) : (s.writeOutput out).seed = s.seed := rfl
@[simp] theorem State.writeOutput_skip (out : List Byte) : (s.writeOutput out).skip = s.skip := rfl
@[simp] theorem State.writeOutput_dec (out : List Byte) : (s.writeOutput out).dec = s.dec := rfl
@[simp] theorem State.writeOutput_mem (out : List Byte) : (s.writeOutput out).mem = Memory.writeBytes s.mem s.latDstAddr.toNat out := rfl
@[simp] theorem State.writeOutput_params (out : List Byte) : (s.writeOutput out).params = s.params := rfl
@[simp] theorem State.writeOutput_host (out : List Byte) : (s.writeOutput out).host = s.host := rfl
@[simp] theorem State.writeOutput_readData (out : List Byte) : (s.writeOutput out).readData = s.readData := rfl
@[simp] theorem State.writeOutput_fresh (out : List Byte) : (s.writeOutput out).fresh = s.fresh := rfl
@[simp] theorem State.writeOutput_litSeen (out : List Byte) : (s.writeOutput out).litSeen = s.litSeen := rfl
@[simp] theorem State.writeOutput_matchSeen (out : List Byte) : (s.writeOutput out).matchSeen = s.matchSeen := rfl

/-! ### State.putLiteral -/

@[simp] theorem State.putLiteral_status (b : Byte) : (s.putLiteral b).status = s.status := rfl
@[simp] theorem State.putLiteral_srcAddr (b : Byte) : (s.putLiteral b).srcAddr = s.srcAddr := rfl
@[simp] theorem State.putLiteral_srcLen (b : Byte) : (s.putLiteral b).srcLen = s.srcLen := rfl
@[simp] theorem State.putLiteral_dstAddr (b : Byte) : (s.putLiteral b).dstAddr = s.dstAddr := rfl
@[simp] theorem State.putLiteral_dstCap (b : Byte) : (s.putLiteral b).dstCap = s.dstCap := rfl
@[simp] theorem State.putLiteral_outLen (b : Byte) : (s.putLiteral b).outLen = s.outLen := rfl
@[simp] theorem State.putLiteral_errInfo (b : Byte) : (s.putLiteral b).errInfo = s.errInfo := rfl
@[simp] theorem State.putLiteral_litCount (b : Byte) : (s.putLiteral b).litCount = s.litCount + 1 := rfl
@[simp] theorem State.putLiteral_matchCount (b : Byte) : (s.putLiteral b).matchCount = s.matchCount := rfl
@[simp] theorem State.putLiteral_phase (b : Byte) : (s.putLiteral b).phase = s.phase := rfl
@[simp] theorem State.putLiteral_variant (b : Byte) : (s.putLiteral b).variant = s.variant := rfl
@[simp] theorem State.putLiteral_latSrcAddr (b : Byte) : (s.putLiteral b).latSrcAddr = s.latSrcAddr := rfl
@[simp] theorem State.putLiteral_latSrcLen (b : Byte) : (s.putLiteral b).latSrcLen = s.latSrcLen := rfl
@[simp] theorem State.putLiteral_latDstAddr (b : Byte) : (s.putLiteral b).latDstAddr = s.latDstAddr := rfl
@[simp] theorem State.putLiteral_latDstCap (b : Byte) : (s.putLiteral b).latDstCap = s.latDstCap := rfl
@[simp] theorem State.putLiteral_flags (b : Byte) : (s.putLiteral b).flags = s.flags := rfl
@[simp] theorem State.putLiteral_dict (b : Byte) : (s.putLiteral b).dict = s.dict := rfl
@[simp] theorem State.putLiteral_bytes (b : Byte) : (s.putLiteral b).bytes = s.bytes := rfl
@[simp] theorem State.putLiteral_enc (b : Byte) : (s.putLiteral b).enc = s.enc := rfl
@[simp] theorem State.putLiteral_seed (b : Byte) : (s.putLiteral b).seed = s.seed := rfl
@[simp] theorem State.putLiteral_skip (b : Byte) : (s.putLiteral b).skip = s.skip := rfl
@[simp] theorem State.putLiteral_dec (b : Byte) : (s.putLiteral b).dec = { s.dec with o := s.dec.o + 1 } := rfl
@[simp] theorem State.putLiteral_mem (b : Byte) : (s.putLiteral b).mem = Memory.write s.mem (regionAddress s.latDstAddr s.dec.o) b := rfl
@[simp] theorem State.putLiteral_params (b : Byte) : (s.putLiteral b).params = s.params := rfl
@[simp] theorem State.putLiteral_host (b : Byte) : (s.putLiteral b).host = s.host := rfl
@[simp] theorem State.putLiteral_readData (b : Byte) : (s.putLiteral b).readData = s.readData := rfl
@[simp] theorem State.putLiteral_fresh (b : Byte) : (s.putLiteral b).fresh = s.fresh := rfl
@[simp] theorem State.putLiteral_litSeen (b : Byte) : (s.putLiteral b).litSeen = s.litSeen := rfl
@[simp] theorem State.putLiteral_matchSeen (b : Byte) : (s.putLiteral b).matchSeen = s.matchSeen := rfl

/-! ### State.putMatch -/

@[simp] theorem State.putMatch_status (n off : Nat) : (s.putMatch n off).status = s.status := rfl
@[simp] theorem State.putMatch_srcAddr (n off : Nat) : (s.putMatch n off).srcAddr = s.srcAddr := rfl
@[simp] theorem State.putMatch_srcLen (n off : Nat) : (s.putMatch n off).srcLen = s.srcLen := rfl
@[simp] theorem State.putMatch_dstAddr (n off : Nat) : (s.putMatch n off).dstAddr = s.dstAddr := rfl
@[simp] theorem State.putMatch_dstCap (n off : Nat) : (s.putMatch n off).dstCap = s.dstCap := rfl
@[simp] theorem State.putMatch_outLen (n off : Nat) : (s.putMatch n off).outLen = s.outLen := rfl
@[simp] theorem State.putMatch_errInfo (n off : Nat) : (s.putMatch n off).errInfo = s.errInfo := rfl
@[simp] theorem State.putMatch_litCount (n off : Nat) : (s.putMatch n off).litCount = s.litCount := rfl
@[simp] theorem State.putMatch_matchCount (n off : Nat) : (s.putMatch n off).matchCount = s.matchCount + 1 := rfl
@[simp] theorem State.putMatch_phase (n off : Nat) : (s.putMatch n off).phase = s.phase := rfl
@[simp] theorem State.putMatch_variant (n off : Nat) : (s.putMatch n off).variant = s.variant := rfl
@[simp] theorem State.putMatch_latSrcAddr (n off : Nat) : (s.putMatch n off).latSrcAddr = s.latSrcAddr := rfl
@[simp] theorem State.putMatch_latSrcLen (n off : Nat) : (s.putMatch n off).latSrcLen = s.latSrcLen := rfl
@[simp] theorem State.putMatch_latDstAddr (n off : Nat) : (s.putMatch n off).latDstAddr = s.latDstAddr := rfl
@[simp] theorem State.putMatch_latDstCap (n off : Nat) : (s.putMatch n off).latDstCap = s.latDstCap := rfl
@[simp] theorem State.putMatch_flags (n off : Nat) : (s.putMatch n off).flags = s.flags := rfl
@[simp] theorem State.putMatch_dict (n off : Nat) : (s.putMatch n off).dict = s.dict := rfl
@[simp] theorem State.putMatch_bytes (n off : Nat) : (s.putMatch n off).bytes = s.bytes := rfl
@[simp] theorem State.putMatch_enc (n off : Nat) : (s.putMatch n off).enc = s.enc := rfl
@[simp] theorem State.putMatch_seed (n off : Nat) : (s.putMatch n off).seed = s.seed := rfl
@[simp] theorem State.putMatch_skip (n off : Nat) : (s.putMatch n off).skip = s.skip := rfl
@[simp] theorem State.putMatch_dec (n off : Nat) : (s.putMatch n off).dec = { s.dec with o := s.dec.o + n } := rfl
@[simp] theorem State.putMatch_mem (n off : Nat) : (s.putMatch n off).mem = copyBytes s.mem s.latDstAddr.toNat s.dec.o off n := rfl
@[simp] theorem State.putMatch_params (n off : Nat) : (s.putMatch n off).params = s.params := rfl
@[simp] theorem State.putMatch_host (n off : Nat) : (s.putMatch n off).host = s.host := rfl
@[simp] theorem State.putMatch_readData (n off : Nat) : (s.putMatch n off).readData = s.readData := rfl
@[simp] theorem State.putMatch_fresh (n off : Nat) : (s.putMatch n off).fresh = s.fresh := rfl
@[simp] theorem State.putMatch_litSeen (n off : Nat) : (s.putMatch n off).litSeen = s.litSeen := rfl
@[simp] theorem State.putMatch_matchSeen (n off : Nat) : (s.putMatch n off).matchSeen = s.matchSeen := rfl

/-! ### consumeFlag -/

@[simp] theorem consumeFlag_status : (consumeFlag s).status = s.status := rfl
@[simp] theorem consumeFlag_srcAddr : (consumeFlag s).srcAddr = s.srcAddr := rfl
@[simp] theorem consumeFlag_srcLen : (consumeFlag s).srcLen = s.srcLen := rfl
@[simp] theorem consumeFlag_dstAddr : (consumeFlag s).dstAddr = s.dstAddr := rfl
@[simp] theorem consumeFlag_dstCap : (consumeFlag s).dstCap = s.dstCap := rfl
@[simp] theorem consumeFlag_outLen : (consumeFlag s).outLen = s.outLen := rfl
@[simp] theorem consumeFlag_errInfo : (consumeFlag s).errInfo = s.errInfo := rfl
@[simp] theorem consumeFlag_litCount : (consumeFlag s).litCount = s.litCount := rfl
@[simp] theorem consumeFlag_matchCount : (consumeFlag s).matchCount = s.matchCount := rfl
@[simp] theorem consumeFlag_phase : (consumeFlag s).phase = s.phase := rfl
@[simp] theorem consumeFlag_variant : (consumeFlag s).variant = s.variant := rfl
@[simp] theorem consumeFlag_latSrcAddr : (consumeFlag s).latSrcAddr = s.latSrcAddr := rfl
@[simp] theorem consumeFlag_latSrcLen : (consumeFlag s).latSrcLen = s.latSrcLen := rfl
@[simp] theorem consumeFlag_latDstAddr : (consumeFlag s).latDstAddr = s.latDstAddr := rfl
@[simp] theorem consumeFlag_latDstCap : (consumeFlag s).latDstCap = s.latDstCap := rfl
@[simp] theorem consumeFlag_flags : (consumeFlag s).flags = s.flags := rfl
@[simp] theorem consumeFlag_dict : (consumeFlag s).dict = s.dict := rfl
@[simp] theorem consumeFlag_bytes : (consumeFlag s).bytes = s.bytes := rfl
@[simp] theorem consumeFlag_enc : (consumeFlag s).enc = s.enc := rfl
@[simp] theorem consumeFlag_seed : (consumeFlag s).seed = s.seed := rfl
@[simp] theorem consumeFlag_skip : (consumeFlag s).skip = s.skip := rfl
@[simp] theorem consumeFlag_dec : (consumeFlag s).dec = { s.dec with left := s.dec.left - 1 } := rfl
@[simp] theorem consumeFlag_mem : (consumeFlag s).mem = s.mem := rfl
@[simp] theorem consumeFlag_params : (consumeFlag s).params = s.params := rfl
@[simp] theorem consumeFlag_host : (consumeFlag s).host = s.host := rfl
@[simp] theorem consumeFlag_readData : (consumeFlag s).readData = s.readData := rfl
@[simp] theorem consumeFlag_fresh : (consumeFlag s).fresh = s.fresh := rfl
@[simp] theorem consumeFlag_litSeen : (consumeFlag s).litSeen = s.litSeen := rfl
@[simp] theorem consumeFlag_matchSeen : (consumeFlag s).matchSeen = s.matchSeen := rfl

/-! ### State.deliver -/

@[simp] theorem State.deliver_status (v : Word) : (s.deliver v).status = s.status := rfl
@[simp] theorem State.deliver_srcAddr (v : Word) : (s.deliver v).srcAddr = s.srcAddr := rfl
@[simp] theorem State.deliver_srcLen (v : Word) : (s.deliver v).srcLen = s.srcLen := rfl
@[simp] theorem State.deliver_dstAddr (v : Word) : (s.deliver v).dstAddr = s.dstAddr := rfl
@[simp] theorem State.deliver_dstCap (v : Word) : (s.deliver v).dstCap = s.dstCap := rfl
@[simp] theorem State.deliver_outLen (v : Word) : (s.deliver v).outLen = s.outLen := rfl
@[simp] theorem State.deliver_errInfo (v : Word) : (s.deliver v).errInfo = s.errInfo := rfl
@[simp] theorem State.deliver_litCount (v : Word) : (s.deliver v).litCount = s.litCount := rfl
@[simp] theorem State.deliver_matchCount (v : Word) : (s.deliver v).matchCount = s.matchCount := rfl
@[simp] theorem State.deliver_phase (v : Word) : (s.deliver v).phase = s.phase := rfl
@[simp] theorem State.deliver_variant (v : Word) : (s.deliver v).variant = s.variant := rfl
@[simp] theorem State.deliver_latSrcAddr (v : Word) : (s.deliver v).latSrcAddr = s.latSrcAddr := rfl
@[simp] theorem State.deliver_latSrcLen (v : Word) : (s.deliver v).latSrcLen = s.latSrcLen := rfl
@[simp] theorem State.deliver_latDstAddr (v : Word) : (s.deliver v).latDstAddr = s.latDstAddr := rfl
@[simp] theorem State.deliver_latDstCap (v : Word) : (s.deliver v).latDstCap = s.latDstCap := rfl
@[simp] theorem State.deliver_flags (v : Word) : (s.deliver v).flags = s.flags := rfl
@[simp] theorem State.deliver_dict (v : Word) : (s.deliver v).dict = s.dict := rfl
@[simp] theorem State.deliver_bytes (v : Word) : (s.deliver v).bytes = s.bytes := rfl
@[simp] theorem State.deliver_enc (v : Word) : (s.deliver v).enc = s.enc := rfl
@[simp] theorem State.deliver_seed (v : Word) : (s.deliver v).seed = s.seed := rfl
@[simp] theorem State.deliver_skip (v : Word) : (s.deliver v).skip = s.skip := rfl
@[simp] theorem State.deliver_dec (v : Word) : (s.deliver v).dec = s.dec := rfl
@[simp] theorem State.deliver_mem (v : Word) : (s.deliver v).mem = s.mem := rfl
@[simp] theorem State.deliver_params (v : Word) : (s.deliver v).params = s.params := rfl
@[simp] theorem State.deliver_host (v : Word) : (s.deliver v).host = s.host := rfl
@[simp] theorem State.deliver_readData (v : Word) : (s.deliver v).readData = v := rfl
@[simp] theorem State.deliver_fresh (v : Word) : (s.deliver v).fresh = s.fresh := rfl
@[simp] theorem State.deliver_litSeen (v : Word) : (s.deliver v).litSeen = s.litSeen := rfl
@[simp] theorem State.deliver_matchSeen (v : Word) : (s.deliver v).matchSeen = s.matchSeen := rfl

/-! ### State.deliverFree -/

@[simp] theorem State.deliverFree_status : s.deliverFree.status = s.status := rfl
@[simp] theorem State.deliverFree_srcAddr : s.deliverFree.srcAddr = s.srcAddr := rfl
@[simp] theorem State.deliverFree_srcLen : s.deliverFree.srcLen = s.srcLen := rfl
@[simp] theorem State.deliverFree_dstAddr : s.deliverFree.dstAddr = s.dstAddr := rfl
@[simp] theorem State.deliverFree_dstCap : s.deliverFree.dstCap = s.dstCap := rfl
@[simp] theorem State.deliverFree_outLen : s.deliverFree.outLen = s.outLen := rfl
@[simp] theorem State.deliverFree_errInfo : s.deliverFree.errInfo = s.errInfo := rfl
@[simp] theorem State.deliverFree_litCount : s.deliverFree.litCount = s.litCount := rfl
@[simp] theorem State.deliverFree_matchCount : s.deliverFree.matchCount = s.matchCount := rfl
@[simp] theorem State.deliverFree_phase : s.deliverFree.phase = s.phase := rfl
@[simp] theorem State.deliverFree_variant : s.deliverFree.variant = s.variant := rfl
@[simp] theorem State.deliverFree_latSrcAddr : s.deliverFree.latSrcAddr = s.latSrcAddr := rfl
@[simp] theorem State.deliverFree_latSrcLen : s.deliverFree.latSrcLen = s.latSrcLen := rfl
@[simp] theorem State.deliverFree_latDstAddr : s.deliverFree.latDstAddr = s.latDstAddr := rfl
@[simp] theorem State.deliverFree_latDstCap : s.deliverFree.latDstCap = s.latDstCap := rfl
@[simp] theorem State.deliverFree_flags : s.deliverFree.flags = s.flags := rfl
@[simp] theorem State.deliverFree_dict : s.deliverFree.dict = s.dict := rfl
@[simp] theorem State.deliverFree_bytes : s.deliverFree.bytes = s.bytes := rfl
@[simp] theorem State.deliverFree_enc : s.deliverFree.enc = s.enc := rfl
@[simp] theorem State.deliverFree_seed : s.deliverFree.seed = s.seed := rfl
@[simp] theorem State.deliverFree_skip : s.deliverFree.skip = s.skip := rfl
@[simp] theorem State.deliverFree_dec : s.deliverFree.dec = s.dec := rfl
@[simp] theorem State.deliverFree_mem : s.deliverFree.mem = s.mem := rfl
@[simp] theorem State.deliverFree_params : s.deliverFree.params = s.params := rfl
@[simp] theorem State.deliverFree_host : s.deliverFree.host = s.host := rfl
@[simp] theorem State.deliverFree_readData : s.deliverFree.readData = Config.freeWord s.fresh := rfl
@[simp] theorem State.deliverFree_fresh : s.deliverFree.fresh = s.fresh + 1 := rfl
@[simp] theorem State.deliverFree_litSeen : s.deliverFree.litSeen = s.litSeen := rfl
@[simp] theorem State.deliverFree_matchSeen : s.deliverFree.matchSeen = s.matchSeen := rfl

end Sys2Proof.Machine
end

