-- ==== Sys2Proof/Machine/Text.lean ====
section
/-! DEFINITION. The textual forms of spec/30_encoding.md R58: `LIT 0xHH`, `MATCH n, d`, `CLEAR`, `ENCODE <variant>`,
`DECODE <variant>`. -/

namespace Sys2Proof.Machine

/-- The name of a variant (R58). -/
def variantText : Variant → String
  | .mio0 => "MIO0"
  | .smsr00 => "SMSR00"
  | .yay0 => "Yay0"
  | .yaz0 => "Yaz0"
  | .rvl0 => "Rvl0"

/-- A hexadecimal digit. -/
def hexDigit (n : Nat) : String := (["0", "1", "2", "3", "4", "5", "6", "7", "8", "9", "A", "B", "C", "D", "E", "F"]).getD n ""

/-- `LIT 0xHH` (R58). -/
def literalText (b : Byte) : String := "LIT 0x" ++ hexDigit (b.toNat / 16) ++ hexDigit (b.toNat % 16)

/-- `MATCH n, d` (R58): the length and the distance, one more than the offset field. -/
def matchText (n : Nat) (off : Offset) : String := "MATCH " ++ toString n ++ ", " ++ toString (off.toNat + 1)

/-- The text of an instruction (R58), a match with the length its form gives (R50, R51, R52). -/
def instrText : Instr → String
  | .clear _ => "CLEAR"
  | .encodeMio0 => "ENCODE " ++ variantText .mio0
  | .encodeSmsr00 => "ENCODE " ++ variantText .smsr00
  | .encodeYay0 => "ENCODE " ++ variantText .yay0
  | .encodeYaz0 => "ENCODE " ++ variantText .yaz0
  | .encodeRvl0 => "ENCODE " ++ variantText .rvl0
  | .decodeMio0 => "DECODE " ++ variantText .mio0
  | .decodeSmsr00 => "DECODE " ++ variantText .smsr00
  | .decodeYay0 => "DECODE " ++ variantText .yay0
  | .decodeYaz0 => "DECODE " ++ variantText .yaz0
  | .decodeRvl0 => "DECODE " ++ variantText .rvl0
  | .lit b => literalText b
  | .matchMio nib off => matchText (nib.toNat + 3) off
  | .matchYayS nib off => matchText (nib.toNat + 2) off
  | .matchYayL off e => matchText (e.toNat + 18) off
  | .matchRvlS nib off => matchText (nib.toNat + 1) off
  | .matchRvlM off e => matchText (e.toNat + 17) off
  | .matchRvlL off x => matchText (x.toNat + 273) off

end Sys2Proof.Machine
end

