-- ==== Sys2Proof/Tests/Slice0.lean ====
section
/-! SUPPORT. Tests. Expected values come from spec/30_encoding.md and spec/95_test_vectors.md, named at each test. The
theorems named `wit_<Statement>` show that the hypotheses of that statement can be met, at boundary values of each of its
clauses. -/

namespace Sys2Proof.Tests

open Sys2Proof Sys2Proof.Machine

/-! ### Small states -/

/-- The next state of an outcome, if it has one. -/
def nextOf : Host.Outcome State Fault Refusal → Option State
  | .next s => some s
  | .fault _ => none
  | .refused _ => none

/-- An idle machine with an input at 0x1000 and an output region at 0x2000. -/
def idleState (src : List Byte) (cap : Word) : State :=
  { State.reset with
    mem := Memory.writeBytes [] 0x1000 src
    srcAddr := 0x1000
    srcLen := BitVec.ofNat 32 src.length
    dstAddr := 0x2000
    dstCap := cap }

/-- A machine whose region registers are latched, with STATUS showing BUSY. -/
def latched (v : Variant) (src : List Byte) (cap : Word) : State :=
  { idleState src cap with
    status := 1
    variant := v
    latSrcAddr := 0x1000
    latSrcLen := BitVec.ofNat 32 src.length
    latDstAddr := 0x2000
    latDstCap := cap }

/-- A running DECODE. -/
def decoding (v : Variant) (src : List Byte) (cap : Word) (d : Decoder) : State :=
  { latched v src cap with phase := .runDecode, dec := d }

/-- A running ENCODE. -/
def encoding (v : Variant) (src : List Byte) (cap : Word) (e : Encoder) (flags : List Word) (dict : List Half)
    (bytes : List Byte) : State :=
  { latched v src cap with phase := .runEncode, enc := e, flags := flags, dict := dict, bytes := bytes }

/-- A running DECODE of a variant with `o` of `n` bytes written, for a token given to `exec`. -/
def tokenState (v : Variant) (o n : Nat) : State :=
  decoding v [] (BitVec.ofNat 32 n) ⟨n, o, 0, 0, 0, 0, 0, 0, 0, 0⟩

/-- The output byte at an index. -/
def outByte (k : Nat) (s : State) : Byte := Memory.read s.mem (0x2000 + k)

/-- The output bytes. -/
def outBytes (n : Nat) (s : State) : List Byte := (List.range n).map fun k => outByte k s

/-- 21 times 'A' (spec/95 EX1). -/
def as21 : List Byte := List.replicate 21 0x41

/-- DE2's container: Yaz0, N = 7, body C0 41 42 30 01. -/
def containerDE2 : List Byte :=
  [0x59, 0x61, 0x7A, 0x30, 0, 0, 0, 7, 0, 0, 0, 0, 0, 0, 0, 0, 0xC0, 0x41, 0x42, 0x30, 0x01]

/-- EX8's containers of "Z". -/
def containerEX8 : Variant → List Byte
  | .mio0 => [0x4D, 0x49, 0x4F, 0x30, 0, 0, 0, 1, 0, 0, 0, 0x14, 0, 0, 0, 0x14, 0x80, 0, 0, 0, 0x5A]
  | .smsr00 => [0x53, 0x4D, 0x53, 0x52, 0x30, 0x30, 0, 0, 0, 0, 0, 1, 0, 0, 0, 0x12, 0x80, 0, 0x5A]
  | .yay0 => [0x59, 0x61, 0x79, 0x30, 0, 0, 0, 1, 0, 0, 0, 0x14, 0, 0, 0, 0x14, 0x80, 0, 0, 0, 0x5A]
  | .yaz0 => [0x59, 0x61, 0x7A, 0x30, 0, 0, 0, 1, 0, 0, 0, 0, 0, 0, 0, 0, 0x80, 0x5A]
  | .rvl0 => [0x52, 0x76, 0x6C, 0x30, 0, 0, 0, 1, 0, 0, 0, 0, 0, 0, 0, 0, 0x80, 0x5A]

/-! ### WellFormed: an ill-formed term for each check -/

/-- R51: a short match of the YAY coding has no nibble 0. -/
theorem test_wf_yayS : (Instr.matchYayS 0 5).wf = false ∧ (Instr.matchYayS 1 5).wf = true := by decide
/-- R52: a short match of the RVL coding has no nibble 0 and no nibble 1. -/
theorem test_wf_rvlS :
    (Instr.matchRvlS 0 5).wf = false ∧ (Instr.matchRvlS 1 5).wf = false ∧ (Instr.matchRvlS 2 5).wf = true := by decide
/-- R6: each capacity is at least 1. -/
theorem test_wf_params :
    { Params.defaults with flagsCap := 0 }.wf = false ∧ { Params.defaults with dictCap := 0 }.wf = false ∧
      { Params.defaults with bytesCap := 0 }.wf = false ∧ Params.defaults.wf = true := by decide

/-! ### Decode: words written out bit by bit from R46 and R49 to R53 -/

/-- The command word of R46: reserved bits [31:8], VARIANT [7:4], OP [3:0]. -/
def word (variant op : BitVec 4) : Word := (0b000000000000000000000000 : BitVec 24) ++ variant ++ op

theorem test_decode_clear : decodeCommand (word 0b1111 0b0000) = .ok (.clear 15) := by decide
theorem test_decode_encodeMio0 : decodeCommand (word 0b0000 0b0001) = .ok .encodeMio0 := by decide
theorem test_decode_encodeSmsr00 : decodeCommand (word 0b0001 0b0001) = .ok .encodeSmsr00 := by decide
theorem test_decode_encodeYay0 : decodeCommand (word 0b0010 0b0001) = .ok .encodeYay0 := by decide
theorem test_decode_encodeYaz0 : decodeCommand (word 0b0011 0b0001) = .ok .encodeYaz0 := by decide
theorem test_decode_encodeRvl0 : decodeCommand (word 0b0100 0b0001) = .ok .encodeRvl0 := by decide
theorem test_decode_decodeMio0 : decodeCommand (word 0b0000 0b0010) = .ok .decodeMio0 := by decide
theorem test_decode_decodeSmsr00 : decodeCommand (word 0b0001 0b0010) = .ok .decodeSmsr00 := by decide
theorem test_decode_decodeYay0 : decodeCommand (word 0b0010 0b0010) = .ok .decodeYay0 := by decide
theorem test_decode_decodeYaz0 : decodeCommand (word 0b0011 0b0010) = .ok .decodeYaz0 := by decide
theorem test_decode_decodeRvl0 : decodeCommand (word 0b0100 0b0010) = .ok .decodeRvl0 := by decide
theorem test_decode_rejects :
    decodeCommand (word 0b0000 0b0011) = .error .reservedOp ∧ decodeCommand (word 0b0101 0b0001) = .error .reservedVariant ∧
      decodeCommand 0x00000101 = .error .reservedBits ∧ decodeCommand 0x00000153 = .error .reservedOp := by decide

theorem test_decode_lit : decodeInline .yay true [0b01000001] = .ok (.lit 0x41, []) := by decide
theorem test_decode_matchMio : decodeInline .mio false [0b11110000, 0b00000000] = .ok (.matchMio 15 0, []) := by decide
theorem test_decode_matchYayS : decodeInline .yay false [0b00110000, 0b00000001] = .ok (.matchYayS 3 1, []) := by decide
theorem test_decode_matchYayL :
    decodeInline .yay false [0b00000000, 0b00000000, 0b00000010] = .ok (.matchYayL 0 2, []) := by decide
theorem test_decode_matchRvlS : decodeInline .rvl false [0b01000000, 0b00000110] = .ok (.matchRvlS 4 6, []) := by decide
theorem test_decode_matchRvlM :
    decodeInline .rvl false [0b00000000, 0b00000000, 0b00000011] = .ok (.matchRvlM 0 3, []) := by decide
theorem test_decode_matchRvlL :
    decodeInline .rvl false [0b00010000, 0b00000000, 0b00000001, 0b00000010] = .ok (.matchRvlL 0 0x0102, []) := by decide
theorem test_decode_truncated :
    decodeInline .yay false [0x00, 0x00] = .error .truncatedToken ∧
      decodeInline .rvl false [0x10, 0x00, 0x00] = .error .truncatedToken ∧
      decodeInline .mio true [] = .error .truncatedToken := by decide

/-! ### One step per instruction -/

/-- CM13 of spec/95: 0x000000F0 is CLEAR. -/
theorem test_clear :
    (nextOf (commandWrite 0x000000F0 { idleState as21 0x100 with status := 0x304, errInfo := 7, litCount := 1 })).map
      (fun t => (t.status, t.errInfo, t.outLen, t.litCount)) = some (0, 0, 0, 0) := by decide

/-- R108, R112: an ENCODE shows BUSY alone and starts its phase with its variant. -/
theorem test_encode_starts :
    [(Instr.encodeMio0, Variant.mio0), (.encodeSmsr00, .smsr00), (.encodeYay0, .yay0), (.encodeYaz0, .yaz0),
      (.encodeRvl0, .rvl0)].all (fun p =>
        (nextOf (exec p.1 (idleState as21 0x100))).map (fun t => (t.status, t.phase, t.variant, t.latSrcLen)) =
          some (1, Phase.runEncode, p.2, 21)) = true := by decide

/-- R93, R113: a DECODE of its variant's container of EX8 passes its header and starts with N = 1. -/
theorem test_decode_starts :
    [(Instr.decodeMio0, Variant.mio0), (.decodeSmsr00, .smsr00), (.decodeYay0, .yay0), (.decodeYaz0, .yaz0),
      (.decodeRvl0, .rvl0)].all (fun p =>
        (nextOf (exec p.1 (idleState (containerEX8 p.2) 1))).map (fun t => (t.status, t.phase, t.dec.n, t.dec.fp)) =
          some (1, Phase.runDecode, 1, 16)) = true := by decide

/-- DX8 of spec/95: a Yaz0 container given to DECODE Yay0 is BadMagic 1. -/
theorem test_decode_badMagic :
    (nextOf (exec .decodeYay0 (idleState (containerEX8 .yaz0) 1))).map (fun t => (t.status, t.errInfo)) =
      some (0x204, 1) := by decide

/-- The streams of EX8 assemble to its containers. -/
theorem test_container_EX8 :
    [Variant.mio0, .smsr00, .yay0, .yaz0, .rvl0].all (fun v =>
      (encoding v [0x5A] 0x100 ⟨1, 0, 0, 1⟩ [flagMask (flagWidthOf v) 0] [] [0x5A]).container = containerEX8 v) = true := by
  decide

/-- AS1 of spec/95: the body of TE6 in MIO0, and its size. -/
theorem test_container_tables :
    let s := encoding .mio0 (List.replicate 13 0) 0x100 ⟨13, 0, 0, 5⟩ [0xD0000000] [0x3001, 0x1008] [0x41, 0x42, 0x43]
    s.containerSize = 27 ∧ s.container.drop 8 =
      [0, 0, 0, 0x14, 0, 0, 0, 0x18, 0xD0, 0, 0, 0, 0x30, 0x01, 0x10, 0x08, 0x41, 0x42, 0x43] := by decide

/-- AS2 of spec/95: the same tokens in SMSR00. -/
theorem test_container_groups :
    let s := encoding .smsr00 (List.replicate 13 0) 0x100 ⟨13, 0, 0, 5⟩ [0xD000] [0x3001, 0x1008] [0x41, 0x42, 0x43]
    s.containerSize = 25 ∧ s.container.drop 4 =
      [0x30, 0x30, 0, 0, 0, 0, 0, 0x0D, 0, 0, 0, 0x16, 0xD0, 0, 0x30, 0x01, 0x10, 0x08, 0x41, 0x42, 0x43] := by decide

/-- AS5 and AS7 of spec/95: the extra halfword and the escape byte follow their descriptor. -/
theorem test_container_stream :
    (encoding .rvl0 (List.replicate 300 0) 0x100 ⟨300, 0, 0, 2⟩ [0x80] [0x1000, 0x001A] [0]).container.drop 16 =
      [0x80, 0x00, 0x10, 0x00, 0x00, 0x1A] ∧
    (encoding .yaz0 as21 0x100 ⟨21, 0, 0, 2⟩ [0x80] [0] [0x41, 0x02]).container.drop 16 =
      [0x80, 0x41, 0x00, 0x00, 0x02] := by decide +kernel

/-- EX1 of spec/95 in Yaz0: the first round emits LIT 0x41, the second MATCH 20, 1, with escape byte 2. -/
theorem test_encode_round :
    (nextOf (step (encoding .yaz0 as21 0x100 ⟨0, 0, 0, 0⟩ [] [] []))).map (fun t => (t.enc, t.bytes, t.litCount)) =
      some (⟨1, 0x80, 1, 1⟩, [0x41], 1) ∧
    (nextOf (step (encoding .yaz0 as21 0x100 ⟨1, 0x80, 1, 1⟩ [] [] [0x41]))).map (fun t => (t.enc, t.dict, t.bytes)) =
      some (⟨21, 0x80, 2, 2⟩, [0x0000], [0x41, 0x02]) := by decide +kernel

/-- EX7 of spec/95: the source "XYZQYZABCRXYZABC". -/
def srcEX7 : List Byte :=
  [0x58, 0x59, 0x5A, 0x51, 0x59, 0x5A, 0x41, 0x42, 0x43, 0x52, 0x58, 0x59, 0x5A, 0x41, 0x42, 0x43]
/-- EX7's ENCODE Yaz0 at c = 10, after its first ten literals. -/
def encodingEX7 : State :=
  { encoding .yaz0 srcEX7 0x100 ⟨10, 0xC0, 2, 10⟩ [0xFF] [] (srcEX7.take 10) with litCount := 10 }
/-- EX7 of spec/95 in Yaz0: the deferral at c = 10 emits LIT 0x58, then MATCH 5, 7 with descriptor 3006; group 2's flag byte
so far is E0. -/
theorem test_encode_deferral :
    (nextOf (step encodingEX7)).map (fun t => (t.enc, t.flags, t.dict, t.bytes.drop 10, [t.litCount, t.matchCount])) =
      some (⟨16, 0xE0, 4, 12⟩, [0xFF], [0x3006], [0x58], [11, 1]) := by decide +kernel

/-- PR1 of spec/95: the end of the ENCODE. -/
theorem test_encode_end :
    (nextOf (step (encoding .yaz0 as21 0x18 ⟨21, 0x80, 2, 2⟩ [] [0x0000] [0x41, 0x02]))).map
      (fun t => (outBytes 21 t, t.status, t.outLen, t.errInfo)) =
      some ([0x59, 0x61, 0x7A, 0x30, 0, 0, 0, 0x15, 0, 0, 0, 0, 0, 0, 0, 0, 0x80, 0x41, 0x00, 0x00, 0x02], 2, 0x15, 0) := by
  decide +kernel

/-- AS8 of spec/95: with DST_CAP = 20 the end is AllocationFailure 4. -/
theorem test_encode_tooBig :
    (nextOf (step (encoding .yaz0 as21 20 ⟨21, 0x80, 2, 2⟩ [] [0x0000] [0x41, 0x02]))).map
      (fun t => (t.status, t.errInfo, t.outLen)) = some (0x104, 4, 0) := by decide +kernel

/-- SB1 of spec/95: BYTES_CAP = 1 makes the escape byte's append fail. -/
theorem test_encode_bytesFull :
    (nextOf (step { encoding .yaz0 as21 0x100 ⟨1, 0x80, 1, 1⟩ [] [] [0x41] with
        params := { Params.defaults with bytesCap := 1 }, litCount := 1 })).map
      (fun t => (t.status, t.errInfo, t.litCount, t.matchCount)) = some (0x104, 3, 1, 0) := by decide +kernel

/-- DE2 of spec/95: its flag byte, then LIT 0x41. -/
theorem test_decode_flags_and_lit :
    (nextOf (step (decoding .yaz0 containerDE2 7 ⟨7, 0, 16, 21, 0, 0, 0, 0, 0, 0⟩))).map (fun t => (t.dec.word, t.dec.left)) =
      some (0xC0, 8) ∧
    (nextOf (step (decoding .yaz0 containerDE2 7 ⟨7, 0, 17, 21, 0, 0, 0, 0, 0xC0, 8⟩))).map
      (fun t => (outByte 0 t, t.dec.o, t.dec.fp, t.dec.left, t.litCount)) = some (0x41, 1, 18, 7, 1) := by decide +kernel

/-- R99: LIT writes its byte and counts. -/
theorem test_lit :
    (nextOf (exec (.lit 0x5A) (tokenState .yaz0 0 1))).map (fun t => (outByte 0 t, t.dec.o, t.litCount)) =
      some (0x5A, 1, 1) := by decide +kernel

/-- DE2 of spec/95: descriptor 0x3001 at o = 2 makes "ABABABA". -/
theorem test_matchYayS :
    (nextOf (exec (.matchYayS 3 1) { tokenState .yaz0 2 7 with mem := [(0x2000, 0x41), (0x2001, 0x42)] })).map
      (fun t => (outBytes 7 t, t.dec.o, t.matchCount)) =
      some ([0x41, 0x42, 0x41, 0x42, 0x41, 0x42, 0x41], 7, 1) := by decide +kernel

/-- EX1 of spec/95: MIO0's F000 has length 18, Yay0's 0000 with escape 02 length 20. -/
theorem test_matchMio_matchYayL :
    (nextOf (exec (.matchMio 15 0) (tokenState .mio0 1 21))).map (fun t => t.dec.o) = some 19 ∧
    (nextOf (exec (.matchYayL 0 2) (tokenState .yay0 1 21))).map (fun t => t.dec.o) = some 21 := by decide +kernel

/-- EX7, EX1 and DE4 of spec/95: Rvl0's 4006 has length 5, 0000 with escape 03 length 20, 1000 with 0001 length 274. -/
theorem test_matchRvl :
    (nextOf (exec (.matchRvlS 4 6) (tokenState .rvl0 11 16))).map (fun t => t.dec.o) = some 16 ∧
    (nextOf (exec (.matchRvlM 0 3) (tokenState .rvl0 1 21))).map (fun t => t.dec.o) = some 21 ∧
    (nextOf (exec (.matchRvlL 0 1) (tokenState .rvl0 1 0x113))).map (fun t => t.dec.o) = some 275 := by decide +kernel

/-- DX1 and DX11 of spec/95: MalformedStream 7 at o = 0, and 8 past N = 3. -/
theorem test_match_checks :
    (nextOf (exec (.matchMio 0 0) (tokenState .mio0 0 4))).map (fun t => (t.status, t.errInfo)) = some (0x304, 7) ∧
    (nextOf (exec (.matchYayS 2 0) (tokenState .yaz0 1 3))).map (fun t => (t.status, t.errInfo)) = some (0x304, 8) := by
  decide +kernel

/-! ### Match finder and text -/

/-- The source of MF5. -/
def srcMF5 (i : Nat) : Byte := [0x41, 0x42, 0x43, 0x78, 0x41, 0x42, 0x43, 0x79, 0x41, 0x42, 0x43].getD i 0

/-- MF5 and MF6 of spec/95: the farthest and the nearest of two equal candidates. -/
theorem test_find_tie :
    find srcMF5 11 273 .farthest 8 = ⟨8, 3⟩ ∧ find srcMF5 11 273 .nearest 8 = ⟨4, 3⟩ := by decide +kernel
/-- MF1 to MF4 of spec/95. -/
theorem test_find_run :
    find (fun _ => 0x41) 21 273 .farthest 0 = ⟨0, 0⟩ ∧ find (fun _ => 0x41) 21 273 .farthest 1 = ⟨1, 20⟩ ∧
      find (fun _ => 0x41) 21 18 .farthest 1 = ⟨1, 19⟩ ∧ find (fun _ => 0x41) 21 273 .farthest 19 = ⟨0, 0⟩ := by
  decide +kernel
/-- The skip tables of spec/95 section 2.2. -/
theorem test_skip :
    skipFor (skipTable [0x41, 0x42, 0x41]) 0x41 = 2 ∧ skipFor (skipTable [0x41, 0x42, 0x41]) 0x42 = 1 ∧
      skipFor (skipTable [0x41, 0x41, 0x41]) 0x41 = 1 ∧ skipFor (skipTable [0x41, 0x42, 0x43]) 0x43 = 3 := by
  decide +kernel
/-- EX7 of spec/95: the tokens of R58's text. -/
theorem test_text : instrText (.matchYayS 3 6) = "MATCH 5, 7" ∧ instrText (.lit 0x58) = "LIT 0x58" := by decide +kernel

/-! ### Placing a table word: `step` runs what `decodeTableWord` reads -/

theorem test_place_command :
    decodeTableWord 32 0x31 = some .encodeYaz0 ∧
      (nextOf (step (State.reset.withFetchWord 32 0x31))).map (fun t => (t.status, t.errInfo)) = some (0x404, 1) := by
  decide +kernel
theorem test_place_tokens :
    decodeTableWord 0 0 = some (.lit 0) ∧ decodeTableWord 8 0 = some (.matchMio 0 0) ∧
      decodeTableWord 16 0x1000 = some (.matchRvlL 0 0) ∧
      (nextOf (step (State.reset.withFetchWord 8 0))).map (fun t => (t.matchCount, t.dec.o)) = some (1, 4099) ∧
      (nextOf (step (State.reset.withFetchWord 16 0x1000))).map (fun t => (t.matchCount, t.dec.o)) = some (1, 4369) ∧
      (nextOf (step (State.reset.withFetchWord 0 0))).map (fun t => (t.litCount, t.dec.o)) = some (1, 4097) := by
  decide +kernel

/-! ### Witnesses: encodings -/

theorem wit_DecodeInvertsEncode :
    (Instr.matchYayS 1 0xFFF).wf = true ∧ (Instr.matchYayS 1 0xFFF).coding? = some .yay ∧
      (Instr.clear 15).wf = true ∧ (Instr.clear 15).coding? = none := by decide
theorem wit_EncodeInvertsDecode :
    decode .rvl (.token ⟨false, [0x1FFF, 0xFFFF], []⟩) = .ok (.matchRvlL 0xFFF 0xFFFF) ∧
      decode .mio (.command 0x000000F0) = .ok (.clear 15) := by decide
theorem wit_NibbleTable :
    (255 < 256) ∧ (255 < if (0x0FFF : Half).toNat / 4096 = 0 then 256 else 65536) ∧
      (65535 < if (0x1000 : Half).toNat / 4096 = 0 then 256 else 65536) := by decide
theorem wit_CodingsRepresentEveryMatch :
    (3 ≤ 3 ∧ 1 ≤ 1 ∧ 3 ≤ codingMax .mio) ∧ (18 ≤ codingMax .mio ∧ 4096 ≤ 4096) ∧ 273 ≤ codingMax .yay ∧
      65808 ≤ codingMax .rvl := by decide

/-! ### Witnesses: starting a command -/

theorem wit_ClearResetsTheStatusRegisters :
    (idleState as21 0x100).busy = false ∧ (latched .yaz0 as21 0x100).busy = true ∧
      ((0x00000100 : Word).toNat % 16 = 0 ∧ (0x00000100 : Word).toNat / 256 ≠ 0) ∧
      ((0xFFFFFFF0 : Word).toNat % 16 = 0 ∧ (0xFFFFFFF0 : Word).toNat / 256 ≠ 0) := by decide
theorem wit_BusyCommandWriteIsIgnored :
    let s := { latched .yaz0 as21 0x100 with host := [opWR Params.defaults 0 0x31] }
    s.busy = true ∧ s.host = opWR s.params 0 0x31 :: [] := by decide
/-- The output region ends where the address space does, and the input region where the output region begins. -/
theorem wit_EncodeCommandsStart :
    let s := { idleState [0x5A] 0x100 with srcAddr := 0xFFFFFEFF, dstAddr := 0xFFFFFF00 }
    s.busy = false ∧ RegionsStart s :=
  ⟨by decide, by decide, by decide, by decide, by decide, by decide⟩
/-- The decoded size equals DST_CAP, in each layout. -/
theorem wit_DecodeCommandsStart :
    (let s := idleState (containerEX8 .mio0) 1
     s.busy = false ∧ RegionsStart s ∧ HeaderPasses .mio0 s) ∧
    (let s := idleState (containerEX8 .smsr00) 1
     s.busy = false ∧ RegionsStart s ∧ HeaderPasses .smsr00 s) ∧
    (let s := idleState containerDE2 7
     s.busy = false ∧ RegionsStart s ∧ HeaderPasses .yaz0 s) :=
  ⟨⟨by decide, ⟨by decide, by decide, by decide, by decide, by decide⟩,
      ⟨by decide, by decide, by decide, by decide, by decide, by decide, by decide⟩⟩,
    ⟨by decide, ⟨by decide, by decide, by decide, by decide, by decide⟩,
      ⟨by decide, by decide, by decide, by decide, by decide, by decide, by decide⟩⟩,
    ⟨by decide, ⟨by decide, by decide, by decide, by decide, by decide⟩,
      ⟨by decide, by decide, by decide, by decide, by decide, by decide, by decide⟩⟩⟩
/-- CM1 to CM11 of spec/95: a word or a setting for each clause, and CM9's that passes all of them. -/
theorem wit_StartChecksInOrder :
    let s := { idleState as21 0x100 with dstAddr := 0x1015 }
    let error (w : Word) (u : State) : Option ErrorCause := (u.beginCommand w).startChecks w
    s.busy = false ∧ error 0x03 s = some .reservedOp ∧ error 0x101 s = some .reservedBits ∧
      error 0x51 s = some .reservedVariant ∧
      error 0x31 { s with srcAddr := 0xFFFFFFEC } = some .inputWraps ∧
      error 0x31 { s with dstAddr := 0xFFFFFF01 } = some .outputWraps ∧
      error 0x31 { s with dstAddr := 0x1014 } = some .regionsOverlap ∧
      error 0x31 { s with srcLen := 0 } = some .inputSize ∧
      error 0x31 { s with srcLen := 0x40000000, dstAddr := 0x80000000 } = some .inputSize ∧
      error 0x31 s = none := by decide
/-- DX8 to DX14 of spec/95: a container for each clause. -/
theorem wit_HeaderChecksInOrder :
    let s (len n a1 a2 : Byte) := idleState [0x4D, 0x49, 0x4F, 0x30, 0, 0, 0, n, 0, 0, 0, a1, 0, 0, 0, a2, len] 4
    let short := idleState [0x59, 0x61, 0x7A, 0x30, 0, 0, 0, 1, 0, 0, 0, 0, 0, 0, 0] 4
    let groups := idleState [0x53, 0x4D, 0x53, 0x52, 0, 0, 0, 0, 0, 0, 0, 1, 0, 0, 0, 15] 4
    let error (v : Variant) (u : State) :=
      (nextOf (exec (Instr.decodeOf v) u)).map (fun t => (t.status.toNat, t.errInfo.toNat))
    (RegionsStart short ∧ RegionsStart groups ∧ RegionsStart (s 0 4 16 17)) ∧
      error .yaz0 short = some (0x304, 1) ∧ error .yay0 (s 0 4 16 17) = some (0x204, 1) ∧
      error .mio0 (s 0 0 16 17) = some (0x404, 2) ∧ error .mio0 (s 0 4 17 16) = some (0x304, 2) ∧
      error .mio0 (s 0 4 16 18) = some (0x304, 2) ∧ error .smsr00 groups = some (0x304, 2) ∧
      error .mio0 (s 0 5 16 17) = some (0x104, 5) ∧ error .mio0 (s 0 4 16 17) = some (1, 0) :=
  ⟨⟨⟨by decide, by decide, by decide, by decide, by decide⟩, ⟨by decide, by decide, by decide, by decide, by decide⟩,
    ⟨by decide, by decide, by decide, by decide, by decide⟩⟩, by decide +kernel⟩
theorem wit_CommandFrame :
    tokenOf (.clear 0) = none ∧ (nextOf (exec (.clear 0) (idleState as21 1))).isSome = true ∧
      tokenOf .decodeYaz0 = none ∧ (nextOf (exec .decodeYaz0 (idleState containerDE2 7))).isSome = true ∧
      tokenOf .encodeRvl0 = none ∧ (nextOf (exec .encodeRvl0 (latched .rvl0 as21 1))).isSome = true := by decide

/-! ### Witnesses: tokens -/

/-- A literal that fills the output. -/
theorem wit_LiteralTokenCompletes : TokenReady (tokenState .yaz0 6 7) := ⟨by decide, by decide, by decide, by decide⟩
/-- Each form with its longest match, from the start of output, filling the output. -/
theorem wit_MatchTokensComplete :
    (let s := tokenState .mio0 1 19
     TokenReady s ∧ s.coding = .mio ∧ (0 : Offset).toNat < s.dec.o ∧ s.dec.o + ((15 : Nibble).toNat + 3) ≤ s.dec.n) ∧
    (let s := tokenState .yaz0 1 18
     TokenReady s ∧ s.coding = .yay ∧ (0 : Offset).toNat < s.dec.o ∧ s.dec.o + ((15 : Nibble).toNat + 2) ≤ s.dec.n) ∧
    (let s := tokenState .yay0 4096 4369
     TokenReady s ∧ s.coding = .yay ∧ (0xFFF : Offset).toNat < s.dec.o ∧
       s.dec.o + ((0xFF : Byte).toNat + 18) ≤ s.dec.n) ∧
    (let s := tokenState .rvl0 1 17
     TokenReady s ∧ s.coding = .rvl ∧ (0 : Offset).toNat < s.dec.o ∧ s.dec.o + ((15 : Nibble).toNat + 1) ≤ s.dec.n) ∧
    (let s := tokenState .rvl0 1 273
     TokenReady s ∧ s.coding = .rvl ∧ (0 : Offset).toNat < s.dec.o ∧ s.dec.o + ((0xFF : Byte).toNat + 17) ≤ s.dec.n) ∧
    (let s := tokenState .rvl0 1 65809
     TokenReady s ∧ s.coding = .rvl ∧ (0 : Offset).toNat < s.dec.o ∧
       s.dec.o + ((0xFFFF : Half).toNat + 273) ≤ s.dec.n) :=
  ⟨⟨⟨by decide, by decide, by decide, by decide⟩, by decide⟩, ⟨⟨by decide, by decide, by decide, by decide⟩, by decide⟩,
    ⟨⟨by decide, by decide, by decide, by decide⟩, by decide⟩, ⟨⟨by decide, by decide, by decide, by decide⟩, by decide⟩,
    ⟨⟨by decide, by decide, by decide, by decide⟩, by decide⟩, ⟨⟨by decide, by decide, by decide, by decide⟩, by decide⟩⟩
/-- Each form with an offset field that names the byte before the start of output, and one byte past the decoded size. -/
theorem wit_MatchTokensAreChecked :
    (let s := tokenState .mio0 1 18
     TokenReady s ∧ s.coding = .mio ∧ s.dec.o ≤ (1 : Offset).toNat ∧ (0 : Offset).toNat < s.dec.o ∧
       s.dec.n < s.dec.o + ((15 : Nibble).toNat + 3)) ∧
    (let s := tokenState .yaz0 1 3
     TokenReady s ∧ s.coding = .yay ∧ s.dec.o ≤ (1 : Offset).toNat ∧ (0 : Offset).toNat < s.dec.o ∧
       s.dec.n < s.dec.o + ((1 : Nibble).toNat + 2) ∧ s.dec.n < s.dec.o + ((0 : Byte).toNat + 18)) ∧
    (let s := tokenState .rvl0 1 3
     TokenReady s ∧ s.coding = .rvl ∧ s.dec.o ≤ (1 : Offset).toNat ∧ (0 : Offset).toNat < s.dec.o ∧
       s.dec.n < s.dec.o + ((2 : Nibble).toNat + 1) ∧ s.dec.n < s.dec.o + ((0 : Byte).toNat + 17) ∧
       s.dec.n < s.dec.o + ((0 : Half).toNat + 273)) :=
  ⟨⟨⟨by decide, by decide, by decide, by decide⟩, by decide⟩, ⟨⟨by decide, by decide, by decide, by decide⟩, by decide⟩,
    ⟨⟨by decide, by decide, by decide, by decide⟩, by decide⟩⟩
/-- A copy that ends with the address space. -/
theorem wit_CopyIsByteByByteForward :
    Memory.wf [(0xFFFFFFF0, 0x41)] = true ∧ 0 < 1 ∧ 0xFFFFFFF0 + 1 + 15 ≤ Config.addressSpace := by decide
theorem wit_TokenFrame :
    tokenOf (.lit 0x5A) ≠ none ∧ (nextOf (exec (.lit 0x5A) (tokenState .yaz0 0 1))).map (·.phase) = some .runDecode ∧
      tokenOf (.matchMio 0 0) ≠ none ∧
      (nextOf (exec (.matchMio 0 0) (tokenState .mio0 0 1))).map (·.phase) = some .idle := by decide +kernel
theorem wit_TokensNeedARunningDecode :
    (Instr.lit 0).wf = true ∧ tokenOf (.lit 0) ≠ none ∧ (idleState as21 1).phase ≠ .runDecode ∧
      (let s := decoding .yaz0 [] 6 ⟨7, 0, 0, 0, 0, 0, 0, 0, 0, 0⟩
       s.phase = .runDecode ∧ s.outputFits = false) ∧
      (let s := tokenState .yaz0 7 7
       s.phase = .runDecode ∧ s.outputFits = true ∧ s.dec.n ≤ s.dec.o) ∧
      (let s := tokenState .yaz0 6 7
       let i := Instr.matchMio 0 0
       i.wf = true ∧ tokenOf i ≠ none ∧ s.phase = .runDecode ∧ s.outputFits = true ∧ s.dec.o < s.dec.n ∧
         i.coding? ≠ none ∧ i.coding? ≠ some s.coding) ∧
      (0 : Nibble).toNat < 1 ∧ (1 : Nibble).toNat < 2 := by decide

/-! ### Witnesses: the decoder's streams -/

/-- DE2's state before its flag byte, one whose F stream is used up (DX6), and one whose output is full. -/
theorem wit_FlagWordsAreRead :
    (let s := decoding .yaz0 containerDE2 7 ⟨7, 0, 16, 21, 0, 0, 0, 0, 0, 0⟩
     DecodingReady s ∧ s.dec.left = 0 ∧ s.dec.fp + 1 ≤ s.dec.fpLim) ∧
    (let s := decoding .yaz0 containerDE2 7 ⟨7, 0, 21, 21, 0, 0, 0, 0, 0, 0⟩
     DecodingReady s ∧ s.dec.left = 0 ∧ s.dec.fpLim < s.dec.fp + 1) ∧
    (let s := decoding .yaz0 containerDE2 7 ⟨7, 7, 21, 21, 0, 0, 0, 0, 0, 0⟩
     s.phase = .runDecode ∧ s.host = [] ∧ s.inputFits = true ∧ s.outputFits = true ∧ s.dec.n ≤ s.dec.o) :=
  ⟨⟨⟨by decide, by decide, by decide, by decide, by decide⟩, by decide⟩,
    ⟨⟨by decide, by decide, by decide, by decide, by decide⟩, by decide⟩, by decide⟩
/-- What a fetch answers, as an option. -/
def fetched (s : State) : Option (Instr × Nat) :=
  match fetchToken s with
  | .ok (i, t) => some (i, t.dec.left)
  | .error _ => none
/-- The first and the last token of a flag byte. -/
theorem wit_FlagBitsMostSignificantFirst :
    (let s := decoding .yaz0 containerDE2 7 ⟨7, 0, 17, 21, 0, 0, 0, 0, 0xC0, 8⟩
     0 < s.fw ∧ s.dec.left = s.fw - 0 ∧ fetched s = some (.lit 0x41, 7)) ∧
    (let s := decoding .yaz0 containerDE2 7 ⟨7, 2, 19, 21, 0, 0, 0, 0, 0xC0, 1⟩
     7 < s.fw ∧ s.dec.left = s.fw - 7 ∧ fetched s = some (.matchYayS 3 1, 0)) := by decide +kernel
/-- A long match of the RVL coding whose bytes end the container (DE4). -/
theorem wit_FetchReadsStreamTokens :
    let s := decoding .rvl0 [0x10, 0x00, 0x00, 0x01] 0x113 ⟨0x113, 1, 0, 4, 0, 0, 0, 0, 0x80, 7⟩
    let i := Instr.matchRvlL 0 1
    let b := inlineBytes (tokenCode i)
    s.layout = .stream ∧ i.wf = true ∧ tokenOf i ≠ none ∧ i.coding? = some s.coding ∧ nextFlag s = (tokenCode i).flag ∧
      s.dec.fp + b.length ≤ s.dec.fpLim ∧ (∀ k, k < b.length → s.srcByte (s.dec.fp + k) = b.getD k 0) := by
  decide +kernel
/-- A long match of the YAY coding in the Tables layout, and a match in the Groups layout. -/
theorem wit_FetchReadsSeparateStreams :
    (let s := decoding .yay0 [0x00, 0x05, 0xFF] 1000 ⟨1000, 9, 0, 0, 0, 2, 2, 3, 0, 1⟩
     let i := Instr.matchYayL 5 0xFF
     let d := (tokenCode i).dict.flatMap be16
     let y := (tokenCode i).bytes
     s.layout = .tables ∧ i.wf = true ∧ tokenOf i ≠ none ∧ i.coding? = some s.coding ∧
       nextFlag s = (tokenCode i).flag ∧ s.dec.dp + d.length ≤ s.dec.dpLim ∧
       (∀ k, k < d.length → s.srcByte (s.dec.dp + k) = d.getD k 0) ∧ s.dec.bp + y.length ≤ s.dec.bpLim ∧
       (∀ k, k < y.length → s.srcByte (s.dec.bp + k) = y.getD k 0)) ∧
    (let s := decoding .smsr00 [0x20, 0x06] 1000 ⟨1000, 9, 0, 2, 0, 0, 2, 2, 0, 1⟩
     let i := Instr.matchMio 2 6
     let d := (tokenCode i).dict.flatMap be16
     s.layout = .groups ∧ i.wf = true ∧ tokenOf i ≠ none ∧ i.coding? = some s.coding ∧
       nextFlag s = (tokenCode i).flag ∧ s.dec.fp + d.length ≤ s.dec.fpLim ∧
       (∀ k, k < d.length → s.srcByte (s.dec.fp + k) = d.getD k 0) ∧ (tokenCode i).bytes = [] ∧
       s.dec.bp ≤ s.dec.bpLim) := by
  decide +kernel
/-- DX3, DX2, DX4 and DX5 of spec/95: a state for each clause. -/
theorem wit_OperandReadsAreBounded :
    (let s := decoding .yaz0 [] 5 ⟨5, 1, 0, 0, 0, 0, 0, 0, 0xC0, 7⟩
     DecodingReady s ∧ s.dec.left ≠ 0 ∧ nextFlag s = true ∧ s.dec.fpLim < s.dec.fp + 1) ∧
    (let s := decoding .yaz0 [0x00] 5 ⟨5, 1, 0, 1, 0, 0, 0, 0, 0x80, 7⟩
     DecodingReady s ∧ s.dec.left ≠ 0 ∧ nextFlag s = false ∧ s.dec.fpLim < s.dec.fp + 2) ∧
    (let s := decoding .yaz0 [0x00, 0x00] 5 ⟨5, 1, 0, 2, 0, 0, 0, 0, 0x80, 7⟩
     DecodingReady s ∧ s.dec.left ≠ 0 ∧ nextFlag s = false ∧ s.dec.fp + 2 ≤ s.dec.fpLim ∧
       extraOf s.coding (descNibble (BitVec.ofNat 16 (containerField s 0 2))) = .escape ∧
       s.dec.fpLim < s.dec.fp + 2 + 1) ∧
    (let s := decoding .rvl0 [0x10, 0x00, 0x00] 5 ⟨5, 1, 0, 3, 0, 0, 0, 0, 0x80, 7⟩
     DecodingReady s ∧ s.dec.left ≠ 0 ∧ nextFlag s = false ∧ s.dec.fp + 2 ≤ s.dec.fpLim ∧
       extraOf s.coding (descNibble (BitVec.ofNat 16 (containerField s 0 2))) = .half ∧ s.dec.fpLim < s.dec.fp + 4) :=
  ⟨⟨⟨by decide, by decide, by decide, by decide, by decide⟩, by decide⟩,
    ⟨⟨by decide, by decide, by decide, by decide, by decide⟩, by decide⟩,
    ⟨⟨by decide, by decide, by decide, by decide, by decide⟩, by decide⟩,
    ⟨⟨by decide, by decide, by decide, by decide, by decide⟩, by decide⟩⟩
theorem wit_DecodeCompletesOnFullOutput :
    let s := decoding .yaz0 containerDE2 7 ⟨7, 7, 21, 21, 0, 0, 0, 0, 0xC0, 5⟩
    s.phase = .runDecode ∧ s.host = [] ∧ s.inputFits = true ∧ s.outputFits = true ∧ s.dec.o = s.dec.n := by decide
/-- STATUS while a command runs. -/
theorem wit_running {s : State} (hp : s.phase ≠ .idle) (h : s.status = 1 ∧ s.errInfo = 0 ∧ s.outLen = 0) : StatusInv s :=
  ⟨fun hi => absurd hi hp, fun _ => h⟩
theorem wit_DecodeErrorsArePrecise_decode :
    let s := decoding .yaz0 containerDE2 7 ⟨7, 0, 21, 21, 0, 0, 0, 0, 0, 0⟩
    s.phase = .runDecode ∧ StatusInv s ∧ (nextOf (engineStep s)).map (·.err) = some true :=
  ⟨by decide, wit_running (by decide) (by decide), by decide⟩

/-! ### Witnesses: the encoder -/

theorem wit_FindReturnsTheLongest : 17 ≤ maxLenOf Params.defaults .mio0 ∧ 4096 ≤ 4099 := by decide
/-- Two sources that differ from index 3 on. -/
theorem wit_FindStaysInsideTheSource :
    17 ≤ 17 ∧ 2 ≤ 3 ∧ ∀ i, i < 3 → (fun _ : Nat => (0 : Byte)) i = (fun i : Nat => if i < 3 then (0 : Byte) else 1) i := by
  decide
/-- The last cursor at which a seed can be formed, and the first at which none can. -/
theorem wit_SkipTableEntries :
    3 ≤ (latched .yaz0 as21 1).latSrcLen.toNat - 18 ∧ ¬3 ≤ (latched .yaz0 as21 1).latSrcLen.toNat - 19 := by decide
theorem wit_HorspoolScanConforms : 3 ≤ 3 := by decide
/-- A flag bit inside its word, one that fills the word, and one that fills the word when FLAGS is full. -/
theorem wit_FlagBitRecordsTheToken :
    (let s := encoding .yaz0 as21 1 ⟨6, 0, 6, 6⟩ [] [] []
     s.enc.fbits < s.fw ∧ s.enc.fbits + 1 < s.fw) ∧
    (let s := encoding .yaz0 as21 1 ⟨7, 0, 7, 7⟩ [] [] []
     s.enc.fbits < s.fw ∧ s.enc.fbits + 1 = s.fw ∧ s.flags.length < s.params.flagsCap.toNat) ∧
    (let s := { encoding .yaz0 as21 1 ⟨15, 0, 7, 15⟩ [0] [] [] with params := { Params.defaults with flagsCap := 1 } }
     s.enc.fbits < s.fw ∧ s.enc.fbits + 1 = s.fw ∧ s.params.flagsCap.toNat ≤ s.flags.length) := by decide
/-- The longest match of the RVL coding at the longest distance, with exactly enough room. -/
theorem wit_EmitMatchEffect :
    let s := { encoding .rvl0 as21 1 ⟨7, 0, 7, 7⟩ [] [] [] with
      params := { Params.defaults with flagsCap := 1, dictCap := 2, bytesCap := 1 } }
    3 ≤ 65808 ∧ 65808 ≤ codingMax s.coding ∧ 1 ≤ 4096 ∧ 4096 ≤ 4096 ∧ s.enc.fbits < s.fw ∧
      s.flags.length < s.params.flagsCap.toNat ∧ s.dict.length + 2 ≤ s.params.dictCap.toNat ∧
      s.bytes.length + 1 ≤ s.params.bytesCap.toNat := by decide
/-- SB1's match, whose escape byte does not fit; EX7's deferral, whose match does not fit after its literal does, and with
room for both; and a match that fills a flag word when FLAGS is full. -/
theorem wit_DecodeErrorsArePrecise_round :
    (let s := { encoding .yaz0 as21 0x100 ⟨1, 0x80, 1, 1⟩ [] [] [0x41] with
        params := { Params.defaults with bytesCap := 1 }, litCount := 1 }
     s.phase = .runEncode ∧ s.host = [] ∧ s.regionsLegal = true ∧ EncoderInv s ∧ s.enc.c < s.latSrcLen.toNat ∧
       roundRaises s s.nextTokens = some (.bytesFull, [])) ∧
    (let s := { encodingEX7 with
        params := { Params.defaults with dictCap := 1, bytesCap := 11 }, dict := [0], matchCount := 0 }
     s.phase = .runEncode ∧ s.host = [] ∧ s.regionsLegal = true ∧ EncoderInv s ∧ s.enc.c < s.latSrcLen.toNat ∧
       roundRaises s s.nextTokens = some (.dictFull, [.literal 0x58])) ∧
    (let s := encodingEX7
     s.phase = .runEncode ∧ s.host = [] ∧ s.regionsLegal = true ∧ EncoderInv s ∧ s.enc.c < s.latSrcLen.toNat ∧
       roundRaises s s.nextTokens = none) ∧
    (let s := { encoding .yaz0 as21 0x100 ⟨15, 0xFE, 7, 15⟩ [0xFF] [] (List.replicate 15 0x41) with
        params := { Params.defaults with flagsCap := 1 }, litCount := 15 }
     s.phase = .runEncode ∧ s.host = [] ∧ s.regionsLegal = true ∧ EncoderInv s ∧ s.enc.c < s.latSrcLen.toNat ∧
       roundRaises s s.nextTokens = some (.flagsFull, [])) := by
  have inv (s : State) (h : s.enc.c ≤ s.latSrcLen.toNat ∧ s.enc.fbits < s.fw ∧
      s.enc.tokens = s.litCount.toNat + s.matchCount.toNat ∧ s.enc.tokens ≤ s.enc.c ∧
      s.fw * s.flags.length + s.enc.fbits = s.enc.tokens ∧
      (∀ i, i < s.fw - s.enc.fbits → s.enc.facc.getLsbD i = false) ∧ s.enc.facc.toNat < 2 ^ s.fw ∧
      s.flags.all (fun w => decide (w.toNat < 2 ^ s.fw)) = true ∧ s.litCount.toNat ≤ s.bytes.length ∧
      s.matchCount.toNat ≤ s.dict.length ∧ s.flags.length ≤ s.params.flagsCap.toNat ∧
      s.dict.length ≤ s.params.dictCap.toNat ∧ s.bytes.length ≤ s.params.bytesCap.toNat) : EncoderInv s := by
    obtain ⟨h1, h2, h3, h4, h5, h6, h7, h8, h9, h10, h11⟩ := h
    exact ⟨h1, h2, h3, h4, h5, h6, ⟨h7, by simpa using h8⟩, h9, h10, h11⟩
  exact ⟨⟨by decide, by decide, by decide, inv _ (by decide +kernel), by decide, by decide +kernel⟩,
    ⟨by decide, by decide, by decide, inv _ (by decide +kernel), by decide, by decide +kernel⟩,
    ⟨by decide, by decide, by decide, inv _ (by decide +kernel), by decide, by decide +kernel⟩,
    ⟨by decide, by decide, by decide, inv _ (by decide +kernel), by decide, by decide +kernel⟩⟩
/-- SB2's end: a partial flag word and FLAGS full. -/
theorem wit_DecodeErrorsArePrecise_finish :
    let s := { encoding .yaz0 as21 0x100 ⟨21, 0x80, 2, 10⟩ [0xFF] [] [] with
      params := { Params.defaults with flagsCap := 1 } }
    s.phase = .runEncode ∧ s.host = [] ∧ s.regionsLegal = true ∧ s.latSrcLen.toNat ≤ s.enc.c ∧ 0 < s.enc.fbits ∧
      s.params.flagsCap.toNat ≤ s.flags.length := by decide
/-- A deferral (EX7) and a plain match (EX1), with exactly enough room; the literal alone follows. -/
theorem wit_EncodeRoundCompletes_matches :
    (let s := { encodingEX7 with params := { Params.defaults with flagsCap := 2, dictCap := 2, bytesCap := 12 } }
     s.phase = .runEncode ∧ s.host = [] ∧ s.regionsLegal = true ∧ s.enc.c < s.latSrcLen.toNat ∧ s.enc.fbits < s.fw ∧
       s.flags.length < s.params.flagsCap.toNat ∧ s.dict.length + 2 ≤ s.params.dictCap.toNat ∧
       s.bytes.length + 2 ≤ s.params.bytesCap.toNat ∧ ¬(s.find s.enc.c).len < 3 ∧
       (s.find (s.enc.c + 1)).len > (s.find s.enc.c).len + 1) ∧
    (let s := { encoding .yaz0 as21 0x100 ⟨1, 0x80, 1, 1⟩ [] [] [0x41] with
        params := { Params.defaults with flagsCap := 1, dictCap := 2, bytesCap := 3 } }
     s.phase = .runEncode ∧ s.host = [] ∧ s.regionsLegal = true ∧ s.enc.c < s.latSrcLen.toNat ∧ s.enc.fbits < s.fw ∧
       s.flags.length < s.params.flagsCap.toNat ∧ s.dict.length + 2 ≤ s.params.dictCap.toNat ∧
       s.bytes.length + 2 ≤ s.params.bytesCap.toNat ∧ ¬(s.find s.enc.c).len < 3 ∧
       ¬(s.find (s.enc.c + 1)).len > (s.find s.enc.c).len + 1) := by decide +kernel
/-- The last source byte, with exactly enough room. -/
theorem wit_EncodeRoundCompletes :
    let s := { encoding .yaz0 as21 1 ⟨20, 0, 7, 7⟩ [] [] [] with
      params := { Params.defaults with flagsCap := 1, dictCap := 2, bytesCap := 2 } }
    s.phase = .runEncode ∧ s.host = [] ∧ s.regionsLegal = true ∧ s.enc.c < s.latSrcLen.toNat ∧ s.enc.fbits < s.fw ∧
      s.flags.length < s.params.flagsCap.toNat ∧ s.dict.length + 2 ≤ s.params.dictCap.toNat ∧
      s.bytes.length + 2 ≤ s.params.bytesCap.toNat := by decide
/-- PR1's ENCODE after its last token. -/
def encodedEX1 : State :=
  { encoding .yaz0 as21 21 ⟨21, 0x80, 2, 2⟩ [] [0x0000] [0x41, 0x02] with litCount := 1, matchCount := 1 }
/-- The encoder's invariant after PR1's last token. -/
theorem wit_encoder : EncoderInv encodedEX1 :=
  ⟨by decide, by decide, by decide, by decide, by decide, by decide,
    ⟨by decide, fun _ hw => absurd hw List.not_mem_nil⟩, by decide, by decide, by decide⟩
theorem wit_FlagWordsCoverTheTokens :
    EncoderInv encodedEX1 ∧ encodedEX1.flags.length < encodedEX1.params.flagsCap.toNat := ⟨wit_encoder, by decide⟩
theorem wit_TokensCoverTheSource : 17 ≤ maxLenOf { Params.defaults with mioMaxLen := .m17 } .smsr00 ∧ 1 ≤ 1 := by decide
theorem wit_TokensExpandToTheSource : 17 ≤ maxLenOf Params.defaults .rvl0 := by decide
/-- PR1's container of 21 bytes against DST_CAP = 21 and 20 (AS8). -/
theorem wit_EncodeEndsByTheFitCheck :
    (let s := encodedEX1
     s.phase = .runEncode ∧ s.host = [] ∧ s.regionsLegal = true ∧ s.latSrcLen.toNat ≤ s.enc.c ∧
       ∃ t, finishFlags s = .ok t ∧ t.containerSize ≤ s.latDstCap.toNat) ∧
    (let s := { encodedEX1 with latDstCap := 20 }
     s.phase = .runEncode ∧ s.host = [] ∧ s.regionsLegal = true ∧ s.latSrcLen.toNat ≤ s.enc.c ∧
       ∃ t, finishFlags s = .ok t ∧ s.latDstCap.toNat < t.containerSize) :=
  ⟨⟨by decide, by decide, by decide, by decide, _, rfl, by decide⟩,
    ⟨by decide, by decide, by decide, by decide, _, rfl, by decide⟩⟩

/-! ### Witnesses: registers, the host, reset -/

/-- SEED and SKIP as reset leaves them. -/
theorem wit_finder {s : State} (h : s.seed = List.replicate 3 0 ∧ s.skip = List.replicate 256 3) : FinderInv s := by
  refine ⟨by rw [h.1]; rfl, by rw [h.2, List.length_replicate], ?_⟩
  intro k hk
  rw [h.2] at hk
  rw [List.eq_of_mem_replicate hk]
  decide

/-- STATUS after reset, after a completed command, after an error, and while a command runs. -/
theorem wit_StatusFieldsAreExclusive :
    StatusInv (idleState as21 1) ∧ StatusInv { idleState as21 1 with status := statusDone, outLen := 21 } ∧
      StatusInv { idleState as21 1 with status := 0x304, errInfo := 7 } ∧
      StatusInv (decoding .yaz0 containerDE2 7 ⟨7, 0, 16, 21, 0, 0, 0, 0, 0, 0⟩) :=
  ⟨⟨fun _ => .inl (by decide), fun h => absurd rfl h⟩, ⟨fun _ => .inr (.inl (by decide)), fun h => absurd rfl h⟩,
    ⟨fun _ => .inr (.inr ⟨.beforeStart, by decide⟩), fun h => absurd rfl h⟩, wit_running (by decide) (by decide)⟩
/-- The first and the last offset of the window, and the last register. -/
theorem wit_RegisterReads :
    [0x00, 0x28, 0x2C, 0xFC].all (fun off : BitVec 8 =>
      let s := { idleState as21 1 with host := [opRD Params.defaults off] }
      s.busy = false && off.toNat % 4 = 0 && s.host = opRD s.params off :: []) = true := by decide
/-- POLL while idle and while a command runs; the step of the latter has a next state. -/
theorem wit_RegisterReads_poll :
    (let s := { idleState as21 1 with host := [.poll, .pass] }
     s.host = .poll :: [.pass] ∧ s.busy = false) ∧
    (let s := { encodedEX1 with host := [.poll] }
     s.host = .poll :: [] ∧ s.busy = true ∧
       (nextOf (step s)).map (fun t => (t.host, t.readData)) = some ([.poll], 1)) := by decide +kernel
/-- A Tables container, whose regions stand at the offsets its header gives. -/
theorem wit_HeaderHoldsTheSourceLength : (encoding .mio0 as21 1 ⟨21, 0, 0, 0⟩ [0] [1] [2]).layout = .tables := by decide
theorem wit_RegisterWrites :
    [0x04, 0x08, 0x0C, 0x10, 0x14, 0x28, 0xFC].all (fun off : BitVec 8 =>
      let s := { latched .yaz0 as21 1 with host := [opWR Params.defaults off 5] }
      off.toNat % 4 = 0 && off ≠ 0 && s.host = opWR s.params off 5 :: []) = true := by decide
theorem wit_NarrowAccesses :
    (let s := { idleState as21 1 with host := [.write (regAddress Params.defaults 0x00) .half 5] }
     (AccessWidth.half ≠ .word ∨ (0x00 : BitVec 8).toNat % 4 ≠ 0) ∧
       s.host = .write (regAddress s.params 0x00) .half 5 :: []) ∧
    (let s := { idleState as21 1 with host := [.read (regAddress Params.defaults 0xFF) .word] }
     (AccessWidth.word ≠ .word ∨ (0xFF : BitVec 8).toNat % 4 ≠ 0) ∧
       s.host = .read (regAddress s.params 0xFF) .word :: []) := by decide
theorem wit_ReadsWhileBusy :
    [0x00, 0x04, 0x08, 0x0C, 0x10, 0x14, 0x18, 0x1C, 0x20, 0x24, 0x28, 0x2C, 0xFC].all (fun off : BitVec 8 =>
      let s := { encodedEX1 with host := [opRD Params.defaults off] }
      s.busy = true && s.status = statusBusy && s.errInfo = 0 && s.outLen = 0 &&
        s.host = opRD s.params off :: []) = true := by decide
/-- A counter already read at its final value while the command runs. -/
theorem wit_CounterReadsStayInRange :
    let s := { encodedEX1 with litSeen := 1, matchSeen := 1 }
    Inv s ∧ DrawsInRange s ∧ s.phase ≠ .idle ∧ (nextOf (step s)).isSome = true :=
  ⟨⟨by decide, by decide, wit_running (by decide) (by decide), fun _ => ⟨by decide, by decide, by decide, by decide⟩,
      fun _ => ⟨by decide, by decide, by decide, by decide, by decide, by decide,
        ⟨by decide, fun _ hw => absurd hw List.not_mem_nil⟩, by decide, by decide, by decide⟩,
      fun h => absurd h (by decide), fun h => absurd rfl h, wit_finder ⟨rfl, rfl⟩⟩,
    fun _ => by decide +kernel, by decide, by decide⟩
/-- The first and the last byte of each region while BUSY = 1, and the bytes around them. -/
theorem wit_HostMemoryAccesses :
    let s := latched .yaz0 as21 0x100
    s.busy = true ∧ (s.inInput 0x1000 = true ∧ s.inInput 0x1014 = true) ∧
      (s.inOutput 0x2000 = true ∧ s.inOutput 0x20FF = true) ∧
      (s.inInput 0xFFF || s.inOutput 0xFFF) = false ∧ (s.inInput 0x1015 || s.inOutput 0x1015) = false ∧
      (s.inInput 0x2100 || s.inOutput 0x2100) = false ∧ (idleState as21 0x100).busy = false := by decide
theorem wit_ResetDuringACommand :
    { encodedEX1 with host := [.reset] }.host = .reset :: [] ∧ { encodedEX1 with host := [.reset] }.busy = true ∧
      Memory.wf encodedEX1.mem = true ∧
      { idleState as21 1 with host := [.reset] }.busy = false := by decide
theorem wit_IdleKeepsTheState : (idleState as21 1).phase = .idle ∧ (idleState as21 1).host = [] := by decide

/-! ### Witnesses: the machine -/

theorem wit_StepRunsTheCommandWord :
    let s := { idleState as21 1 with host := [opWR Params.defaults 0 0x42, .poll] }
    s.host = opWR s.params 0 0x42 :: [.poll] ∧ decodeCommand 0x42 = .ok .decodeRvl0 := by decide
theorem wit_StepRunsTheToken :
    let s := decoding .yaz0 containerDE2 7 ⟨7, 2, 19, 21, 0, 0, 0, 0, 0xC0, 6⟩
    DecodingReady s ∧ s.dec.left ≠ 0 ∧ fetched s = some (.matchYayS 3 1, 5) :=
  ⟨⟨by decide, by decide, by decide, by decide, by decide⟩, by decide, by decide +kernel⟩
/-- The invariant of an ENCODE that has emitted its tokens. -/
theorem wit_inv_encode : Inv encodedEX1 :=
  ⟨by decide, by decide, wit_running (by decide) (by decide), fun _ => ⟨by decide, by decide, by decide, by decide⟩,
    fun _ => wit_encoder, fun h => absurd h (by decide), fun h => absurd rfl h, wit_finder ⟨rfl, rfl⟩⟩
/-- A DECODE of DE2's container before its first flag byte. -/
def decodingDE2 : State := decoding .yaz0 containerDE2 7 ⟨7, 0, 16, 21, 0, 0, 0, 0, 0, 0⟩
/-- The invariant of a running DECODE. -/
theorem wit_inv_decode : Inv decodingDE2 :=
  ⟨by decide, by decide, wit_running (by decide) (by decide), fun _ => ⟨by decide, by decide, by decide, by decide⟩,
    fun h => absurd h (by decide),
    fun _ => ⟨by decide, by decide, by decide, by decide, by decide, by decide, by decide, by decide⟩,
    fun _ => ⟨rfl, rfl, rfl⟩, wit_finder ⟨rfl, rfl⟩⟩
/-- The invariant of an idle machine. -/
theorem wit_inv_idle : Inv (idleState as21 0x18) :=
  ⟨by decide, by decide, ⟨fun _ => .inl (by decide), fun h => absurd rfl h⟩, fun h => absurd rfl h,
    fun h => absurd h (by decide), fun h => absurd h (by decide), fun _ => ⟨rfl, rfl, rfl⟩, wit_finder ⟨rfl, rfl⟩⟩
theorem wit_EveryStepKeepsTheInvariant :
    (Inv encodedEX1 ∧ (nextOf (step encodedEX1)).isSome = true) ∧
      (Inv decodingDE2 ∧ (nextOf (step decodingDE2)).isSome = true) :=
  ⟨⟨wit_inv_encode, by decide⟩, ⟨wit_inv_decode, by decide⟩⟩
theorem wit_EngineWritesOnlyTheOutputRegion :
    Inv encodedEX1 ∧ (nextOf (engineStep encodedEX1)).isSome = true ∧ encodedEX1.phase ≠ .idle :=
  ⟨wit_inv_encode, by decide, by decide⟩
/-- The invariant does not speak of the host's script. -/
theorem wit_inv_host {s : State} (h : Inv s) (ops : List HostOp) : Inv { s with host := ops } :=
  ⟨h.memory, h.params, ⟨h.status.idle, h.status.running⟩, fun hp => ⟨(h.context hp).1, (h.context hp).2, (h.context hp).3,
      (h.context hp).4⟩,
    fun hp => ⟨(h.encoder hp).1, (h.encoder hp).2, (h.encoder hp).3, (h.encoder hp).4, (h.encoder hp).5, (h.encoder hp).6,
      (h.encoder hp).7, (h.encoder hp).8, (h.encoder hp).9, (h.encoder hp).10⟩,
    fun hp => ⟨(h.decoder hp).1, (h.decoder hp).2, (h.decoder hp).3, (h.decoder hp).4, (h.decoder hp).5, (h.decoder hp).6,
      (h.decoder hp).7, (h.decoder hp).8⟩,
    h.buffers, ⟨h.finder.1, h.finder.2, h.finder.3⟩⟩
/-- A register read just past the window, and a write of the last byte of the input region while BUSY = 1: each meets the
hypothesis and stops. -/
theorem wit_OnlyTheHostCanStopTheMachine_stops :
    (let s := { idleState as21 0x18 with host := [.read 0x00000100 .word] }
     Inv s ∧ regOffset? s.params 0x00000100 = none ∧ step s = .fault (.noRegister 0x00000100)) ∧
    (let s := { encodedEX1 with host := [.memWrite 0x00001014 0x42] }
     Inv s ∧ s.busy = true ∧ step s = .refused (.hostRace 0x00001014)) ∧
    (let s := { encodedEX1 with host := [.memRead 0x00002014] }
     Inv s ∧ s.busy = true ∧ step s = .refused (.hostRace 0x00002014)) :=
  ⟨⟨wit_inv_host wit_inv_idle _, by decide, rfl⟩, ⟨wit_inv_host wit_inv_encode _, by decide, rfl⟩,
    ⟨wit_inv_host wit_inv_encode _, by decide, rfl⟩⟩
theorem wit_OnlyTheHostCanStopTheMachine : Inv decodingDE2 ∧ Inv (idleState as21 0x18) := ⟨wit_inv_decode, wit_inv_idle⟩
theorem wit_EveryCommandEnds :
    (Inv encodedEX1 ∧ encodedEX1.phase ≠ .idle) ∧ (Inv decodingDE2 ∧ decodingDE2.phase ≠ .idle) :=
  ⟨⟨wit_inv_encode, by decide⟩, ⟨wit_inv_decode, by decide⟩⟩
/-- EX8's one literal, with exactly enough room in the buffers, and DST_CAP at its container's size and one less. -/
theorem wit_EncodeWritesTheContainer :
    (let s := { idleState [0x5A] 18 with params := { Params.defaults with flagsCap := 1, dictCap := 1, bytesCap := 1 } }
     let src : Nat → Byte := fun i => Memory.read s.mem (s.srcAddr.toNat + i)
     let ts := sourceTokens src s.srcLen.toNat (maxLenOf s.params .yaz0) s.params.mfTie
     s.busy = false ∧ RegionsStart s ∧
       (flagWordsFrom (flagWidthOf .yaz0) 0 0 ts).length ≤ s.params.flagsCap.toNat ∧
       (dictOf (codingOf .yaz0) ts).length ≤ s.params.dictCap.toNat ∧
       (bytesOf (codingOf .yaz0) ts).length ≤ s.params.bytesCap.toNat ∧
       16 + 1 * (flagWordsFrom (flagWidthOf .yaz0) 0 0 ts).length + 2 * (dictOf (codingOf .yaz0) ts).length +
         (bytesOf (codingOf .yaz0) ts).length = 18) ∧
    ((idleState [0x5A] 17).busy = false ∧ RegionsStart (idleState [0x5A] 17) ∧ (17 : Word).toNat < 18) :=
  ⟨⟨by decide, ⟨by decide, by decide, by decide, by decide, by decide⟩, by decide +kernel⟩,
    by decide, ⟨by decide, by decide, by decide, by decide, by decide⟩, by decide⟩
/-- Two idle machines that differ in what an earlier command left. -/
theorem wit_CommandsForgetEarlierOnes :
    let s := idleState as21 0x18
    let t := { s with status := 0x304, errInfo := 7, litCount := 1, variant := .rvl0, enc := ⟨3, 4, 5, 6⟩ }
    Inv s ∧ Inv t ∧ s.busy = false ∧ t.busy = false ∧ s.mem = t.mem ∧ s.params = t.params ∧ s.srcAddr = t.srcAddr ∧
      s.srcLen = t.srcLen ∧ s.dstAddr = t.dstAddr ∧ s.dstCap = t.dstCap ∧
      ¬((0x31 : Word).toNat % 16 = 0 ∧ (0x31 : Word).toNat / 256 = 0) :=
  ⟨wit_inv_idle,
    ⟨by decide, by decide, ⟨fun _ => .inr (.inr ⟨.beforeStart, by decide⟩), fun h => absurd rfl h⟩,
      fun h => absurd rfl h, fun h => absurd h (by decide), fun h => absurd h (by decide), fun _ => ⟨rfl, rfl, rfl⟩,
      wit_finder ⟨rfl, rfl⟩⟩,
    by decide, by decide, rfl, rfl, rfl, rfl, rfl, rfl, by decide⟩
/-- DE2's container and output region at two places each. -/
theorem wit_CommandsForgetEarlierOnes_addresses :
    let s := idleState containerDE2 7
    let t := { s with
      mem := Memory.writeBytes [] 0x9000 containerDE2, srcAddr := 0x9000, dstAddr := 0x9015, errInfo := 7, status := 0x304 }
    Inv s ∧ Inv t ∧ s.busy = false ∧ t.busy = false ∧ s.params = t.params ∧ s.srcLen = t.srcLen ∧ s.dstCap = t.dstCap ∧
      RegionsStart s ∧ RegionsStart t ∧
      (∀ i, i < s.srcLen.toNat → Memory.read s.mem (s.srcAddr.toNat + i) = Memory.read t.mem (t.srcAddr.toNat + i)) ∧
      (∀ i, i < s.dstCap.toNat → Memory.read s.mem (s.dstAddr.toNat + i) = Memory.read t.mem (t.dstAddr.toNat + i)) :=
  ⟨⟨by decide, by decide, ⟨fun _ => .inl (by decide), fun h => absurd rfl h⟩, fun h => absurd rfl h,
      fun h => absurd h (by decide), fun h => absurd h (by decide), fun _ => ⟨rfl, rfl, rfl⟩, wit_finder ⟨rfl, rfl⟩⟩,
    ⟨by decide, by decide, ⟨fun _ => .inr (.inr ⟨.beforeStart, by decide⟩), fun h => absurd rfl h⟩,
      fun h => absurd rfl h, fun h => absurd h (by decide), fun h => absurd h (by decide), fun _ => ⟨rfl, rfl, rfl⟩,
      wit_finder ⟨rfl, rfl⟩⟩,
    by decide, by decide, rfl, rfl, rfl, ⟨by decide, by decide, by decide, by decide, by decide⟩,
    ⟨by decide, by decide, by decide, by decide, by decide⟩, by decide +kernel, by decide +kernel⟩
/-- EX8 in Yaz0: the ENCODE completes, and its container can be decoded into one byte. -/
theorem wit_DecodeReproducesTheSource :
    let s := idleState [0x5A] 18
    let t := s.runCommand (commandWord 1 (codeOfVariant .yaz0))
    let u := { t with srcAddr := t.dstAddr, srcLen := t.outLen, dstAddr := 0x3000, dstCap := 1 }
    Inv s ∧ s.busy = false ∧ RegionsStart s ∧ t.status = 0x00000002 ∧ RegionsStart u ∧ s.srcLen.toNat ≤ (1 : Word).toNat :=
  ⟨⟨by decide, by decide, ⟨fun _ => .inl (by decide), fun h => absurd rfl h⟩, fun h => absurd rfl h,
      fun h => absurd h (by decide), fun h => absurd h (by decide), fun _ => ⟨rfl, rfl, rfl⟩, wit_finder ⟨rfl, rfl⟩⟩,
    by decide, ⟨by decide, by decide, by decide, by decide, by decide⟩, by decide +kernel,
    ⟨by decide +kernel, by decide +kernel, by decide +kernel, by decide +kernel, by decide +kernel⟩, by decide⟩

end Sys2Proof.Tests
end

/-! Why a step stops (R5, R116, R139, R145). An instruction stops only where it could not execute. A decoded command word
is a command, which always goes on, and a fetched token is one the running DECODE can execute; so the engine never stops
in a state whose regions hold its accesses, and what is left is the host's own access. -/

namespace Sys2Proof

/-- The instruction of a command word is a command (R46). -/
theorem tokenOf_of_decodeCommand {w : Word} {i : Instr} (h : decodeCommand w = .ok i) : Machine.tokenOf i = none := by
  unfold decodeCommand at h
  split at h
  · cases h; rfl
  · split at h
    · cases h
    · split at h
      · cases h
      · split at h
        · cases h
        · rename_i v _
          split at h <;> cases h <;> cases v <;> rfl

/-- The match token read from a descriptor is well formed: its nibble is one its form admits (R51, R52). -/
theorem matchOf_wf (coding : Coding) (d : Half) (extra : Nat) : (matchOf coding d extra).wf = true := by
  cases coding with
  | mio => rfl
  | yay =>
    dsimp only [matchOf]
    split
    · rfl
    · exact decide_eq_true (show 1 ≤ (descNibble d).toNat by bv_omega)
  | rvl =>
    dsimp only [matchOf]
    split
    · rfl
    · split
      · rfl
      · exact decide_eq_true (show 2 ≤ (descNibble d).toNat by bv_omega)

/-- The match token read under a coding belongs to that coding (R50, R51, R52). -/
theorem matchOf_coding? (coding : Coding) (d : Half) (extra : Nat) : (matchOf coding d extra).coding? = some coding := by
  cases coding with
  | mio => rfl
  | yay =>
    dsimp only [matchOf]
    split <;> rfl
  | rvl =>
    dsimp only [matchOf]
    split
    · rfl
    · split <;> rfl

end Sys2Proof

namespace Sys2Proof.Machine

/-! ### Instructions that go on -/

/-- A token that a state can execute: a DECODE runs with room for output (R96), the token is well formed (R51, R52), and it
is of the running coding or of every coding (R45). -/
structure CanExecute (i : Instr) (s : State) : Prop where
  ready : TokenReady s
  wf : i.wf = true
  coding : i.coding? = none ∨ i.coding? = some s.coding

/-- A command goes on in every state (R108, R109, R110). -/
theorem exec_command_next {i : Instr} (h : tokenOf i = none) (s : State) : ∃ t, exec i s = .next t := by
  cases i with
  | lit | matchMio | matchYayS | matchYayL | matchRvlS | matchRvlM | matchRvlL => cases h
  | _ => exact ⟨_, rfl⟩

/-- A match that no guard stops goes on, completed or ended by CHECK_MATCH (R100, R102). -/
theorem doMatch_next {s : State} (h : TokenReady s) {coding : Coding} (hc : some coding = some s.coding) (n : Nat)
    (off : Offset) : ∃ t, doMatch coding n off s = .next t := by
  have hg : tokenGuard (some coding) s = none := h.guard (.inr hc)
  exact ⟨s.runMatch n off.toNat, by simp [doMatch, hg]⟩

/-- A token goes on in every state that can execute it (R96). -/
theorem CanExecute.exec_next {i : Instr} {s : State} (h : CanExecute i s) : ∃ t, exec i s = .next t := by
  obtain ⟨hr, hwf, hc⟩ := h
  cases i with
  | lit b =>
    have hg : tokenGuard none s = none := hr.guard (.inl rfl)
    exact ⟨s.putLiteral b, by simp [exec, execLit, hg]⟩
  | matchMio nib off => exact doMatch_next hr (hc.resolve_left nofun) _ off
  | matchYayS nib off =>
    have hn : ¬ nib.toNat < 1 := Nat.not_lt.2 (of_decide_eq_true hwf)
    simpa only [exec, execMatchYayS, if_neg hn] using doMatch_next hr (hc.resolve_left nofun) _ off
  | matchYayL off e => exact doMatch_next hr (hc.resolve_left nofun) _ off
  | matchRvlS nib off =>
    have hn : ¬ nib.toNat < 2 := Nat.not_lt.2 (of_decide_eq_true hwf)
    simpa only [exec, execMatchRvlS, if_neg hn] using doMatch_next hr (hc.resolve_left nofun) _ off
  | matchRvlM off e => exact doMatch_next hr (hc.resolve_left nofun) _ off
  | matchRvlL off x => exact doMatch_next hr (hc.resolve_left nofun) _ off
  | _ => exact exec_command_next rfl s

/-- A word written to CMD goes on, whether or not it encodes an instruction (R47, R109). -/
theorem commandWrite_next (w : Word) (s : State) : ∃ t, commandWrite w s = .next t := by
  unfold commandWrite
  split
  · rename_i i h
    exact exec_command_next (tokenOf_of_decodeCommand h) s
  · exact ⟨_, rfl⟩

/-! ### Fetched tokens can execute -/

/-- Moving the decoder's input leaves a ready state ready. -/
theorem TokenReady.withDec {s : State} (h : TokenReady s) {d : Decoder} (hn : d.n = s.dec.n) (ho : d.o = s.dec.o) :
    TokenReady { s with dec := d } :=
  ⟨h.running, h.legal, hn ▸ h.fits, by simpa only [hn, ho] using h.room⟩

/-- A read of a stream moves a cursor and changes nothing else (R94). -/
theorem readStream_ok {st : InStream} {w v : Nat} {e : ErrorCause} {s t : State} (h : readStream st w e s = .ok (v, t)) :
    ∃ c x, t = { s with dec := setCursor c x s.dec } := by
  rcases readStream_cases st w e s with ⟨-, he⟩ | ⟨-, hok⟩
  · cases he.symm.trans h
  · cases hok.symm.trans h
    exact ⟨_, _, rfl⟩

/-- A read of a stream leaves a ready state ready, under the same coding. -/
theorem TokenReady.after_readStream {st : InStream} {w v : Nat} {e : ErrorCause} {s t : State} (hs : TokenReady s)
    (h : readStream st w e s = .ok (v, t)) : TokenReady t ∧ t.coding = s.coding := by
  obtain ⟨c, x, rfl⟩ := readStream_ok h
  exact ⟨hs.withDec (setCursor_n c x s.dec) (setCursor_o c x s.dec), rfl⟩

/-- The match token of a descriptor read under the running coding can execute. -/
theorem TokenReady.canExecute_matchOf {t : State} (h : TokenReady t) {coding : Coding} (hc : t.coding = coding) (d : Half)
    (extra : Nat) : CanExecute (matchOf coding d extra) t :=
  ⟨h, matchOf_wf coding d extra, .inr (by rw [matchOf_coding?, hc])⟩

/-- A fetched literal can execute (R99). -/
theorem TokenReady.canExecute_of_fetchLiteral {s t : State} {i : Instr} (hs : TokenReady s)
    (h : fetchLiteral s = .ok (i, t)) : CanExecute i t := by
  unfold fetchLiteral at h
  split at h
  · cases h
  · rename_i hread
    cases h
    exact ⟨(hs.after_readStream hread).1, rfl, .inl rfl⟩

/-- A fetched match can execute, whatever its nibble calls for (R100, R101). -/
theorem TokenReady.canExecute_of_fetchMatch {s t : State} {i : Instr} (hs : TokenReady s)
    (h : fetchMatch s = .ok (i, t)) : CanExecute i t := by
  unfold fetchMatch at h
  split at h
  · cases h
  · rename_i hdesc
    obtain ⟨hr, hc⟩ := hs.after_readStream hdesc
    have after_extra {st : InStream} {w x : Nat} {e : ErrorCause} {u : State} (d : Half)
        (hread : readStream st w e _ = .ok (x, u)) : CanExecute (matchOf s.coding d x) u :=
      (hr.after_readStream hread).1.canExecute_matchOf ((hr.after_readStream hread).2.trans hc) d x
    dsimp only at h
    split at h
    · cases h
      exact hr.canExecute_matchOf hc _ _
    · split at h
      · cases h
      · rename_i hread
        cases h
        exact after_extra _ hread
    · split at h
      · cases h
      · rename_i hread
        cases h
        exact after_extra _ hread

/-- Every token the decoder fetches can execute (R96, R98). -/
theorem TokenReady.canExecute_of_fetchToken {s t : State} {i : Instr} (hs : TokenReady s)
    (h : fetchToken s = .ok (i, t)) : CanExecute i t := by
  have hconsumed : TokenReady (consumeFlag s) := hs.withDec rfl rfl
  unfold fetchToken at h
  split at h
  · exact hconsumed.canExecute_of_fetchLiteral h
  · exact hconsumed.canExecute_of_fetchMatch h

/-! ### The engine's step -/

/-- The latched regions hold every access the engine can make in the running phase (R28, R37, R94). -/
structure EngineInRegions (s : State) : Prop where
  encode : s.phase = .runEncode → s.regionsLegal = true
  decode : s.phase = .runDecode → s.inputFits = true ∧ s.outputFits = true

/-- In the states the invariant admits the latched regions hold the engine's accesses. -/
theorem Inv.engineInRegions {s : State} (h : Inv s) : EngineInRegions s where
  encode hp := (h.context (by simp [hp])).legal
  decode hp := by
    have hlegal := (h.context (by simp [hp])).legal
    have hdec := h.decoder hp
    simp only [State.regionsLegal, Bool.and_eq_true] at hlegal
    simp [State.inputFits, State.outputFits, hlegal, hdec.fits, hdec.flagCursor.2, hdec.dictCursor.2, hdec.byteCursor.2]

/-- A running DECODE whose output region fits and is not full is ready for a token (R96). -/
theorem tokenReady_of_outputFits {s : State} (hp : s.phase = .runDecode) (hout : s.outputFits = true)
    (hroom : s.dec.o < s.dec.n) : TokenReady s := by
  simp only [State.outputFits, Bool.and_eq_true, decide_eq_true_eq] at hout
  exact ⟨hp, hout.1, hout.2, hroom⟩

/-- The engine's step of an ENCODE goes on (R76, R112). -/
theorem EngineInRegions.encodeStep_next {s : State} (h : EngineInRegions s) (hp : s.phase = .runEncode) :
    ∃ t, encodeStep s = .next t := by
  rcases encodeStep_cases s with ⟨hill, -⟩ | ⟨-, -, hround⟩ | ⟨-, -, hend⟩
  · cases hill.symm.trans (h.encode hp)
  · exact ⟨_, hround⟩
  · exact ⟨_, hend⟩

/-- The engine's step of a DECODE goes on (R96). -/
theorem EngineInRegions.decodeStep_next {s : State} (h : EngineInRegions s) (hp : s.phase = .runDecode) :
    ∃ t, decodeStep s = .next t := by
  obtain ⟨hin, hout⟩ := h.decode hp
  rcases decodeStep_cases s with ⟨hunfit, -⟩ | ⟨-, ⟨-, hstep⟩ | ⟨-, -, ⟨e, -, hstep⟩ | ⟨t, -, hstep⟩⟩ |
    ⟨hroom, -, ⟨e, -, hstep⟩ | ⟨i, t, hfetch, hstep⟩⟩⟩
  · simp [hin, hout] at hunfit
  · exact ⟨_, hstep⟩
  · exact ⟨_, hstep⟩
  · exact ⟨_, hstep⟩
  · exact ⟨_, hstep⟩
  · rw [hstep]
    exact ((tokenReady_of_outputFits hp hout hroom).canExecute_of_fetchToken hfetch).exec_next

/-- The engine's step goes on (R145). -/
theorem EngineInRegions.engineStep_next {s : State} (h : EngineInRegions s) : ∃ t, engineStep s = .next t := by
  cases hp : s.phase with
  | idle => exact ⟨s, engineStep_idle hp⟩
  | runEncode => exact engineStep_encode hp ▸ h.encodeStep_next hp
  | runDecode => exact engineStep_decode hp ▸ h.decodeStep_next hp

/-! ### The host's accesses -/

/-- The addresses of a region (R11, R12). -/
theorem inRegion_iff (base len addr : Word) :
    inRegion base len addr = true ↔ base.toNat ≤ addr.toNat ∧ addr.toNat < base.toNat + len.toNat := by
  simp [inRegion]

/-- A register write goes on, or faults outside the window (R27). -/
theorem hostWrite_cases (addr : Word) (width : AccessWidth) (v : Word) (s : State) :
    (∃ t, hostWrite addr width v s = .next t) ∨
      (regOffset? s.params addr = none ∧ hostWrite addr width v s = .fault (.noRegister addr)) := by
  unfold hostWrite
  cases regOffset? s.params addr with
  | none => exact .inr ⟨rfl, rfl⟩
  | some off =>
    left
    dsimp only
    split
    · exact ⟨_, rfl⟩
    · split
      · exact commandWrite_next v s
      · exact ⟨_, rfl⟩

/-- A register read goes on, or faults outside the window (R27). -/
theorem hostRead_cases (addr : Word) (width : AccessWidth) (s : State) :
    (∃ t, hostRead addr width s = .next t) ∨
      (regOffset? s.params addr = none ∧ hostRead addr width s = .fault (.noRegister addr)) := by
  unfold hostRead
  cases regOffset? s.params addr with
  | none => exact .inr ⟨rfl, rfl⟩
  | some off => exact .inl ⟨_, rfl⟩

/-- A write of a byte of memory goes on, or is refused in a latched region while BUSY = 1 (R139). -/
theorem hostMemWrite_cases (addr : Word) (v : Byte) (s : State) :
    (∃ t, hostMemWrite addr v s = .next t) ∨
      (s.busy = true ∧ (s.inInput addr = true ∨ s.inOutput addr = true) ∧
        hostMemWrite addr v s = .refused (.hostRace addr)) := by
  unfold hostMemWrite
  split
  · rename_i h
    simp only [Bool.and_eq_true, Bool.or_eq_true] at h
    exact .inr ⟨h.1, h.2, rfl⟩
  · exact .inl ⟨_, rfl⟩

/-- A read of a byte of memory goes on, or is refused in the output region while BUSY = 1 (R139). -/
theorem hostMemRead_cases (addr : Word) (s : State) :
    (∃ t, hostMemRead addr s = .next t) ∨
      (s.busy = true ∧ s.inOutput addr = true ∧ hostMemRead addr s = .refused (.hostRace addr)) := by
  unfold hostMemRead
  split
  · rename_i h
    simp only [Bool.and_eq_true] at h
    exact .inr ⟨h.1, h.2, rfl⟩
  · exact .inl ⟨_, rfl⟩

/-! ### The machine's step with a host operation -/

/-- An operation other than a POLL that waits is taken from the script and done. -/
theorem step_of_host {s : State} {op : HostOp} {rest : List HostOp} (h : s.host = op :: rest)
    (hop : op = .poll → s.busy = false) : step s = hostMove op { s with host := rest } := by
  cases op <;> simp [step, machineStep, h, hop]

/-- A POLL that waits reads STATUS and gives the engine the turn (R58, R145). -/
theorem step_of_waiting_poll {s : State} {rest : List HostOp} (h : s.host = .poll :: rest) (hb : s.busy = true) :
    step s = engineStep (s.deliver s.status) := by
  simp [step, machineStep, h, hb]

/-- Settles O56: the engine and the instructions go on in every state the invariant admits, so a step can stop only at the
host's access, case by case over its next operation. -/
theorem onlyTheHostCanStopTheMachine : Obligations.OnlyTheHostCanStopTheMachine := by
  intro s hinv
  have hengine : EngineInRegions s := hinv.engineInRegions
  cases hhost : s.host with
  | nil => exact .inl (step_of_quiet hhost ▸ hengine.engineStep_next)
  | cons op rest =>
    have hmove := step_of_host hhost
    cases op with
    | write addr width v =>
      rw [hmove nofun]
      rcases hostWrite_cases addr width v { s with host := rest } with hnext | ⟨hoff, hfault⟩
      · exact .inl hnext
      · exact .inr (.inl ⟨_, addr, rest, rfl, .inr ⟨width, v, rfl⟩, hoff, hfault⟩)
    | read addr width =>
      rw [hmove nofun]
      rcases hostRead_cases addr width { s with host := rest } with hnext | ⟨hoff, hfault⟩
      · exact .inl hnext
      · exact .inr (.inl ⟨_, addr, rest, rfl, .inl ⟨width, rfl⟩, hoff, hfault⟩)
    | memWrite addr v =>
      rw [hmove nofun]
      rcases hostMemWrite_cases addr v { s with host := rest } with hnext | ⟨hbusy, hin, hrefused⟩
      · exact .inl hnext
      · have hwithin := hin.imp (inRegion_iff _ _ _).1 (inRegion_iff _ _ _).1
        exact .inr (.inr ⟨hbusy, _, addr, rest, rfl, .inl ⟨⟨v, rfl⟩, hwithin⟩, hrefused⟩)
    | memRead addr =>
      rw [hmove nofun]
      rcases hostMemRead_cases addr { s with host := rest } with hnext | ⟨hbusy, hin, hrefused⟩
      · exact .inl hnext
      · exact .inr (.inr ⟨hbusy, _, addr, rest, rfl, .inr ⟨rfl, (inRegion_iff _ _ _).1 hin⟩, hrefused⟩)
    | poll =>
      cases hbusy : s.busy with
      | false => exact .inl ⟨_, hmove fun _ => hbusy⟩
      | true =>
        have hpolled : EngineInRegions (s.deliver s.status) := ⟨hengine.encode, hengine.decode⟩
        exact .inl (step_of_waiting_poll hhost hbusy ▸ hpolled.engineStep_next)
    | pass =>
      have hpassed : EngineInRegions { s with host := rest } := ⟨hengine.encode, hengine.decode⟩
      rw [hmove nofun]
      exact .inl hpassed.engineStep_next
    | reset => exact .inl ⟨_, hmove nofun⟩

end Sys2Proof.Machine

/-! Registers (R8 to R12, R34, R58): the fields of STATUS, and what the host's aligned accesses do. -/

namespace Sys2Proof.Machine

/-! ### STATUS -/

/-- The values STATUS takes: as reset or CLEAR leaves it, BUSY, DONE, and the five error codes (R10, R122). -/
def statusValues : List Word := [0, statusBusy, statusDone, 0x104, 0x204, 0x304, 0x404, 0x504]

/-- STATUS after an error is one of the values of STATUS. -/
theorem ErrorCause.status_mem (e : ErrorCause) : e.status ∈ statusValues := by
  cases e <;> decide

/-- In every state the invariant admits STATUS has one of its values. -/
theorem StatusInv.status_mem {s : State} (h : StatusInv s) : s.status ∈ statusValues := by
  by_cases hp : s.phase = .idle
  · rcases h.idle hp with ⟨hst, -, -⟩ | ⟨hst, -⟩ | ⟨e, hst, -, -⟩
    · rw [hst]; decide
    · rw [hst]; decide
    · rw [hst]; exact e.status_mem
  · rw [(h.running hp).1]; decide

/-- The fields of each value of STATUS, the reserved bits together (R10). -/
theorem statusValues_fields : ∀ w ∈ statusValues,
    ¬(w.getLsbD 0 ∧ w.getLsbD 1) ∧ ¬(w.getLsbD 0 ∧ w.getLsbD 2) ∧ ¬(w.getLsbD 1 ∧ w.getLsbD 2) ∧
      (w.extractLsb' 8 4 ≠ 0 ↔ w.getLsbD 2 = true) ∧ w.extractLsb' 3 5 = 0 ∧ w.extractLsb' 12 20 = 0 := by
  simp [statusValues, statusBusy, statusDone]

/-- A bit of a field that is 0 is 0. -/
theorem getLsbD_of_extractLsb'_eq_zero {w : Word} {start len k : Nat} (h : w.extractLsb' start len = 0)
    (hlo : start ≤ k) (hhi : k < start + len) : w.getLsbD k = false := by
  have hbit := congrArg (·.getLsbD (k - start)) h
  simpa [show k - start < len by omega, show start + (k - start) = k by omega] using hbit

/-- Settles O40: STATUS has one of eight values, and each has the fields R10 says. -/
theorem statusFieldsAreExclusive : Obligations.StatusFieldsAreExclusive := by
  intro s h
  obtain ⟨hbd, hbe, hde, hcode, hlow, hhigh⟩ := statusValues_fields _ h.status_mem
  refine ⟨hbd, hbe, hde, hcode, fun k hk => ?_, fun _ => rfl⟩
  by_cases hlt : k < 32
  · rcases hk with ⟨hlo, hhi⟩ | hlo
    · exact getLsbD_of_extractLsb'_eq_zero hlow hlo (by omega)
    · exact getLsbD_of_extractLsb'_eq_zero hhigh hlo (by omega)
  · exact BitVec.getLsbD_of_ge _ _ (by omega)

/-! ### Aligned accesses -/

/-- A 32-bit read in the register window is a read of the register at its offset (R8, R34). -/
theorem step_of_opRD {s : State} {off : BitVec 8} {rest : List HostOp} (h : s.host = opRD s.params off :: rest) :
    step s = .next (({ s with host := rest } : State).readRegister off .word) := by
  rw [step_of_host h nofun]
  simp [opRD, hostMove, hostRead]

/-- A word written at an aligned offset is a command at CMD's, and any other goes to its register (R8, R9, R34). -/
theorem step_of_opWR {s : State} {off : BitVec 8} {v : Word} {rest : List HostOp}
    (h : s.host = opWR s.params off v :: rest) (hal : off.toNat % 4 = 0) :
    step s =
      if off = 0 then commandWrite v { s with host := rest }
      else .next (({ s with host := rest } : State).setRegister off v) := by
  have haligned : alignedWord .word off = true := (alignedWord_iff _ _).2 ⟨rfl, hal⟩
  rw [step_of_host h nofun]
  simp [opWR, hostMove, hostWrite, haligned]

/-- The register at each offset, as a choice by the offset (R8, R9). -/
theorem State.register_eq (s : State) (off : BitVec 8) :
    s.register off =
      if off = 0x04 then s.status else if off = 0x08 then s.srcAddr else if off = 0x0C then s.srcLen
      else if off = 0x10 then s.dstAddr else if off = 0x14 then s.dstCap else if off = 0x18 then s.outLen
      else if off = 0x1C then s.errInfo else if off = 0x20 then s.litCount else if off = 0x24 then s.matchCount
      else if off = 0x28 then s.params.lzcId else 0 := by
  unfold State.register
  simp only [← BitVec.toNat_inj]
  generalize off.toNat = n
  split <;> simp_all

/-- An aligned 32-bit read while BUSY = 0 hands over the register (R8, R35). -/
theorem State.readRegister_word {s : State} (hb : s.busy = false) {off : BitVec 8} (hal : off.toNat % 4 = 0) :
    s.readRegister off .word = s.deliver (s.register off) := by
  have haligned : alignedWord .word off = true := (alignedWord_iff _ _).2 ⟨rfl, hal⟩
  simp [State.readRegister, haligned, hb]

/-- The registers after a write at an offset other than CMD's (R11, R12). -/
theorem State.setRegister_eq (s : State) (off : BitVec 8) (v : Word) :
    s.setRegister off v =
      { s with
        srcAddr := if off = 0x08 then v else s.srcAddr
        srcLen := if off = 0x0C then v else s.srcLen
        dstAddr := if off = 0x10 then v else s.dstAddr
        dstCap := if off = 0x14 then v else s.dstCap } := by
  unfold State.setRegister
  simp only [← BitVec.toNat_inj]
  generalize off.toNat = n
  split <;> simp_all

/-- Settles O51: a CMD write is an aligned write at offset 0, and the word written decodes to the instruction. -/
theorem stepRunsTheCommandWord : Obligations.StepRunsTheCommandWord := by
  intro s w i rest hhost hdecode
  rw [step_of_opWR hhost (by decide), if_pos rfl, commandWrite, hdecode]

/-- Settles O42: the write goes to the register at the offset. -/
theorem registerWrites : Obligations.RegisterWrites := by
  intro s off v rest hal hne hhost
  rw [step_of_opWR hhost hal, if_neg hne, State.setRegister_eq]

end Sys2Proof.Machine

/-! The token encoder's operations, each said once: FLAGBIT (R81), the emission of a token (R79, R80) and of a round's
tokens (R76), the end of an ENCODE (R82, R86, R112), with what they do where an append raises. -/

namespace Sys2Proof.Machine

/-- A state that differs from another in the stream buffers and the token encoder alone: as a raise in the middle of a token
leaves it (R123). -/
def SameButStreams (s u : State) : Prop :=
  ∃ flags dict bytes enc, u = { s with flags := flags, dict := dict, bytes := bytes, enc := enc }

/-- A state differs from itself in nothing. -/
theorem SameButStreams.refl (s : State) : SameButStreams s s := ⟨_, _, _, _, rfl⟩

/-- Two such differences are one. -/
theorem SameButStreams.trans {s t u : State} (h : SameButStreams s t) (h' : SameButStreams t u) : SameButStreams s u := by
  obtain ⟨_, _, _, _, rfl⟩ := h
  obtain ⟨_, _, _, _, rfl⟩ := h'
  exact ⟨_, _, _, _, rfl⟩

/-! ### Appends that raise -/

/-- Appending more entries than fit raises AllocationFailure 2 (R60). -/
theorem appendAllDict_overflows : ∀ (l : List Half) (s : State), s.dict.length ≤ s.params.dictCap.toNat →
    s.params.dictCap.toNat < s.dict.length + l.length →
    ∃ u, appendAllDict l s = .error (.dictFull, u) ∧ SameButStreams s u
  | [], s, hfit, hover => absurd hover (by simpa using hfit)
  | x :: l, s, hfit, hover => by
    by_cases hroom : s.dict.length < s.params.dictCap.toNat
    · obtain ⟨u, hu, hsame⟩ := appendAllDict_overflows l { s with dict := s.dict ++ [x] }
        (by simp; omega) (by simp at hover ⊢; omega)
      exact ⟨u, by rw [appendAllDict, appendDict, if_pos hroom]; exact hu, .trans ⟨_, _, _, _, rfl⟩ hsame⟩
    · exact ⟨s, by rw [appendAllDict, appendDict, if_neg hroom], .refl s⟩

/-- Appending more bytes than fit raises AllocationFailure 3 (R60). -/
theorem appendAllBytes_overflows : ∀ (l : List Byte) (s : State), s.bytes.length ≤ s.params.bytesCap.toNat →
    s.params.bytesCap.toNat < s.bytes.length + l.length →
    ∃ u, appendAllBytes l s = .error (.bytesFull, u) ∧ SameButStreams s u
  | [], s, hfit, hover => absurd hover (by simpa using hfit)
  | x :: l, s, hfit, hover => by
    by_cases hroom : s.bytes.length < s.params.bytesCap.toNat
    · obtain ⟨u, hu, hsame⟩ := appendAllBytes_overflows l { s with bytes := s.bytes ++ [x] }
        (by simp; omega) (by simp at hover ⊢; omega)
      exact ⟨u, by rw [appendAllBytes, appendBytes, if_pos hroom]; exact hu, .trans ⟨_, _, _, _, rfl⟩ hsame⟩
    · exact ⟨s, by rw [appendAllBytes, appendBytes, if_neg hroom], .refl s⟩

/-! ### FLAGBIT -/

/-- The flag bit of a token: 1 for a literal, 0 for a match (R49). -/
def Token.isLiteral : Token → Bool
  | .literal _ => true
  | .copy _ _ => false

/-- The accumulator with a token's flag bit in its place (R81). -/
def State.faccWith (bit : Bool) (s : State) : Word := s.enc.facc ||| (if bit then flagMask s.fw s.enc.fbits else 0)

/-- FLAGBIT: the accumulator takes the bit, and goes to FLAGS when it is full (R81). -/
theorem flagBit_eq (bit : Bool) (s : State) :
    flagBit bit s =
      if s.enc.fbits + 1 = s.fw then
        if s.flags.length < s.params.flagsCap.toNat then
          .ok { s with flags := s.flags ++ [s.faccWith bit], enc := ⟨s.enc.c, 0, 0, s.enc.tokens + 1⟩ }
        else .error (.flagsFull, { s with enc := ⟨s.enc.c, s.faccWith bit, s.enc.fbits + 1, s.enc.tokens + 1⟩ })
      else .ok { s with enc := ⟨s.enc.c, s.faccWith bit, s.enc.fbits + 1, s.enc.tokens + 1⟩ } := by
  unfold flagBit
  dsimp only
  refine ite_congr rfl (fun _ => ?_) fun _ => rfl
  by_cases hroom : s.flags.length < s.params.flagsCap.toNat
  · simp [appendFlags, hroom, State.faccWith]
  · simp [appendFlags, hroom, State.faccWith]

/-- FLAGBIT of a token sets the three values of `recordFlag` where FLAGS takes a full word (R81). -/
theorem flagBit_fits {s : State} (t : Token) (h : s.enc.fbits + 1 = s.fw → s.flags.length < s.params.flagsCap.toNat) :
    flagBit t.isLiteral s =
      let f := recordFlag s.fw (s.flags, s.enc.facc, s.enc.fbits) t
      .ok { s with flags := f.1, enc := ⟨s.enc.c, f.2.1, f.2.2, s.enc.tokens + 1⟩ } := by
  have hrecord : recordFlag s.fw (s.flags, s.enc.facc, s.enc.fbits) t =
      if s.enc.fbits + 1 = s.fw then (s.flags ++ [s.faccWith t.isLiteral], 0, 0)
      else (s.flags, s.faccWith t.isLiteral, s.enc.fbits + 1) := by
    cases t <;> simp [recordFlag, State.faccWith, Token.isLiteral, flagMask]
  rw [flagBit_eq, hrecord]
  by_cases hfull : s.enc.fbits + 1 = s.fw
  · simp [hfull, h hfull]
  · simp [hfull]

/-- FLAGBIT of a full word that FLAGS does not take raises AllocationFailure 1 (R60, R81). -/
theorem flagBit_overflows {s : State} (bit : Bool) (hfull : s.enc.fbits + 1 = s.fw)
    (hno : s.params.flagsCap.toNat ≤ s.flags.length) : ∃ u, flagBit bit s = .error (.flagsFull, u) ∧ SameButStreams s u :=
  ⟨_, by rw [flagBit_eq, if_pos hfull, if_neg (Nat.not_lt.2 hno)], _, _, _, _, rfl⟩

/-! ### The emission of a token -/

/-- The counter of a token's kind and the cursor move past it (R76, R79, R80). -/
def State.countToken (t : Token) (s : State) : State :=
  { s with
    litCount := s.litCount + BitVec.ofNat 32 (literalsIn [t])
    matchCount := s.matchCount + BitVec.ofNat 32 (copiesIn [t])
    enc := { s.enc with c := s.enc.c + t.span } }

/-- One token, whichever it is: its entries, its bytes, its flag bit, its counter and the cursor (R76, R79, R80). -/
theorem emitToken_eq (t : Token) (s : State) :
    emitToken t s = (do
      let a ← appendAllDict (dictOf s.coding [t]) s
      let b ← appendAllBytes (bytesOf s.coding [t]) a
      let c ← flagBit t.isLiteral b
      pure (c.countToken t) : Progress) := by
  cases t with
  | literal b =>
    rw [emitToken, emitLiteral, show dictOf s.coding [.literal b] = [] from rfl,
      show bytesOf s.coding [.literal b] = [b] from rfl, show Token.isLiteral (.literal b) = true from rfl]
    dsimp only [appendAllDict, appendAllBytes, Bind.bind, Except.bind]
    cases appendBytes b s with
    | error e => rfl
    | ok a =>
      dsimp only
      cases flagBit true a with
      | error e => rfl
      | ok c => simp [State.countToken, State.advance, literalsIn, copiesIn, Token.span, pure, Except.pure]
  | copy n d =>
    rw [emitToken, emitMatch,
      show dictOf s.coding [.copy n d] = (tokenCode (matchInstr s.coding n d)).dict from List.append_nil _,
      show bytesOf s.coding [.copy n d] = (tokenCode (matchInstr s.coding n d)).bytes from List.append_nil _,
      show Token.isLiteral (.copy n d) = false from rfl]
    dsimp only [Bind.bind, Except.bind]
    cases appendAllDict (tokenCode (matchInstr s.coding n d)).dict s with
    | error e => rfl
    | ok a =>
      dsimp only
      cases appendAllBytes (tokenCode (matchInstr s.coding n d)).bytes a with
      | error e => rfl
      | ok b =>
        dsimp only
        cases flagBit false b with
        | error e => rfl
        | ok c => simp [State.countToken, State.advance, literalsIn, copiesIn, Token.span, pure, Except.pure]

/-- A token none of whose appends raises is emitted (R76, R79, R80, R81). -/
theorem emitToken_fits {s : State} {t : Token} (h : tokenRaises s t = none) : emitToken t s = .ok (afterToken s t) := by
  obtain ⟨hdict, hbytes, hflags⟩ := tokenRaises_none_room h
  rw [emitToken_eq, appendAllDict_fits _ _ hdict]
  dsimp only [Bind.bind, Except.bind]
  rw [appendAllBytes_fits _ _ (by exact hbytes)]
  dsimp only
  rw [flagBit_fits t (by exact hflags)]
  rfl

/-- The first append of a token that raises ends it, and the counters do not count it (R60, R123, R124). -/
theorem emitToken_raises {s : State} {t : Token} {e : ErrorCause} (hdict : s.dict.length ≤ s.params.dictCap.toNat)
    (hbytes : s.bytes.length ≤ s.params.bytesCap.toNat) (h : tokenRaises s t = some e) :
    ∃ u, emitToken t s = .error (e, u) ∧ SameButStreams s u := by
  rw [emitToken_eq]
  unfold tokenRaises at h
  split at h
  · cases h
    obtain ⟨u, hu, hsame⟩ := appendAllDict_overflows _ s hdict ‹_›
    exact ⟨u, by rw [hu]; rfl, hsame⟩
  · rw [appendAllDict_fits _ _ (by omega)]
    split at h
    · cases h
      obtain ⟨u, hu, hsame⟩ := appendAllBytes_overflows (bytesOf s.coding [t])
        { s with dict := s.dict ++ dictOf s.coding [t] } hbytes ‹_›
      exact ⟨u, by dsimp only [Bind.bind, Except.bind]; rw [hu], .trans ⟨_, _, _, _, rfl⟩ hsame⟩
    · dsimp only [Bind.bind, Except.bind]
      rw [appendAllBytes_fits _ _ (by simp; omega)]
      split at h
      · cases h
        rename_i hfull
        obtain ⟨u, hu, hsame⟩ := flagBit_overflows t.isLiteral
          (s := { s with dict := s.dict ++ dictOf s.coding [t], bytes := s.bytes ++ bytesOf s.coding [t] }) hfull.1 hfull.2
        exact ⟨u, by dsimp only; rw [hu], .trans ⟨_, _, _, _, rfl⟩ hsame⟩
      · cases h

/-! ### The emission of a round -/

/-- A round none of whose tokens raises is emitted (R76). -/
theorem emitTokens_fits : ∀ {ts : List Token} {s : State}, roundRaises s ts = none →
    emitTokens ts s = .ok (ts.foldl afterToken s)
  | [], _, _ => rfl
  | t :: ts, s, h => by
    rw [roundRaises] at h
    cases ht : tokenRaises s t with
    | some e => simp [ht] at h
    | none =>
      rw [emitTokens, emitToken_fits ht]
      exact emitTokens_fits (by simpa [ht] using h)

/-- The first token of a round that raises ends it, after the tokens completed before it (R123, R124). -/
theorem emitTokens_raises {ts : List Token} {s : State} {e : ErrorCause} {completed : List Token}
    (hdict : s.dict.length ≤ s.params.dictCap.toNat) (hbytes : s.bytes.length ≤ s.params.bytesCap.toNat)
    (h : roundRaises s ts = some (e, completed)) :
    ∃ u, emitTokens ts s = .error (e, u) ∧ SameButStreams (completed.foldl afterToken s) u := by
  induction ts generalizing s e completed with
  | nil => simp [roundRaises] at h
  | cons t ts ih =>
    rw [roundRaises] at h
    cases ht : tokenRaises s t with
    | some e' =>
      rw [ht] at h
      cases h
      obtain ⟨u, hu, hsame⟩ := emitToken_raises hdict hbytes ht
      exact ⟨u, by rw [emitTokens, hu], hsame⟩
    | none =>
      obtain ⟨hdict', hbytes', -⟩ := tokenRaises_none_room ht
      rw [ht] at h
      obtain ⟨p, hp, heq⟩ := Option.map_eq_some_iff.1 h
      cases heq
      obtain ⟨u, hu, hsame⟩ := ih (s := afterToken s t) (by simpa [afterToken] using hdict')
        (by simpa [afterToken] using hbytes') hp
      exact ⟨u, by rw [emitTokens, emitToken_fits ht]; exact hu, by rwa [List.foldl_cons]⟩

/-- Emitted tokens change the streams, the encoder and the counters alone. -/
theorem foldl_afterToken_eq (ts : List Token) (s : State) : ∃ flags dict bytes enc lit mat,
    ts.foldl afterToken s =
      { s with flags := flags, dict := dict, bytes := bytes, enc := enc, litCount := lit, matchCount := mat } := by
  induction ts generalizing s with
  | nil => exact ⟨_, _, _, _, _, _, rfl⟩
  | cons t ts ih =>
    obtain ⟨_, _, _, _, _, _, h⟩ := ih (afterToken s t)
    exact ⟨_, _, _, _, _, _, by rw [List.foldl_cons, h, afterToken]⟩

/-! ### The encoder's counts after a token -/

/-- The streams' flag words, the accumulator and its bit count describe `tokens` tokens (R49, R81): the part of the encoder's
invariant that FLAGBIT keeps. -/
structure FlagsDescribe (fw tokens : Nat) (p : List Word × Word × Nat) : Prop where
  partialWord : p.2.2 < fw
  described : fw * p.1.length + p.2.2 = tokens
  unusedBits : ∀ i, i < fw - p.2.2 → p.2.1.getLsbD i = false
  width : p.2.1.toNat < 2 ^ fw ∧ ∀ w ∈ p.1, w.toNat < 2 ^ fw

/-- A flag word takes a bit of its own width. -/
theorem or_bit_lt {acc : Word} {fw k : Nat} (hacc : acc.toNat < 2 ^ fw) (hk : k < fw) :
    (acc ||| (1#32 <<< k)).toNat < 2 ^ fw := by
  rw [BitVec.toNat_or]
  refine Nat.or_lt_two_pow hacc ?_
  calc (1#32 <<< k).toNat = 1 <<< k % 2 ^ 32 := by simp
    _ ≤ 2 ^ k := by rw [Nat.one_shiftLeft]; exact Nat.mod_le _ _
    _ < 2 ^ fw := Nat.pow_lt_pow_right (by decide) hk

/-- FLAGBIT describes one token more (R81). -/
theorem FlagsDescribe.recordFlag {fw tokens : Nat} {p : List Word × Word × Nat} (h : FlagsDescribe fw tokens p) (t : Token) :
    FlagsDescribe fw (tokens + 1) (recordFlag fw p t) := by
  obtain ⟨flags, acc, n⟩ := p
  obtain ⟨hn, hcount, hunused, hacc, hflags⟩ := h
  dsimp only at hn hcount hunused hacc hflags
  obtain ⟨acc', heq, hunused', hacc'⟩ : ∃ acc', Machine.recordFlag fw (flags, acc, n) t =
        (if n + 1 = fw then (flags ++ [acc'], 0, 0) else (flags, acc', n + 1)) ∧
      (∀ i, i < fw - (n + 1) → acc'.getLsbD i = false) ∧ acc'.toNat < 2 ^ fw := by
    cases t with
    | literal b =>
      refine ⟨_, rfl, fun i hi => ?_, or_bit_lt hacc (by omega)⟩
      have hlow : i < fw - 1 - n := by omega
      simp [hunused i (by omega), hlow]
    | copy m d => exact ⟨_, rfl, fun i hi => hunused i (by omega), hacc⟩
  rw [heq]
  split
  · refine ⟨by dsimp only; omega, ?_, fun i _ => by simp, Nat.two_pow_pos fw, fun w hw => ?_⟩
    · simp [Nat.mul_add]; omega
    · rcases List.mem_append.1 hw with hw | hw
      · exact hflags w hw
      · rwa [List.mem_singleton.1 hw]
  · exact ⟨by dsimp only; omega, by dsimp only; omega, hunused', hacc', hflags⟩

/-- A counter that does not wrap takes a small number. -/
theorem toNat_add_ofNat {x : Word} {k : Nat} (h : x.toNat + k < 2 ^ 32) : (x + BitVec.ofNat 32 k).toNat = x.toNat + k := by
  rw [BitVec.toNat_add, BitVec.toNat_ofNat]
  omega

/-- A match has a dictionary entry (R80). -/
theorem one_le_dict_matchInstr (coding : Coding) (n d : Nat) : 1 ≤ (tokenCode (matchInstr coding n d)).dict.length := by
  cases coding <;> simp only [matchInstr] <;> (repeat' split) <;> simp [tokenCode, encode, matchCode]

/-- A token is a literal with a byte or a match with an entry (R79, R80). -/
theorem token_counts (coding : Coding) (t : Token) :
    literalsIn [t] + copiesIn [t] = 1 ∧ literalsIn [t] ≤ (bytesOf coding [t]).length ∧
      copiesIn [t] ≤ (dictOf coding [t]).length := by
  cases t with
  | literal b => exact ⟨rfl, Nat.le_refl 1, Nat.zero_le _⟩
  | copy n d => exact ⟨rfl, Nat.zero_le _, by simpa [dictOf, tokenInstr, copiesIn] using one_le_dict_matchInstr coding n d⟩

/-- FLAGBIT takes a word of FLAGS only for a full accumulator (R81). -/
theorem recordFlag_length_le {fw n cap : Nat} {flags : List Word} {acc : Word} (hcap : flags.length ≤ cap)
    (hfull : n + 1 = fw → flags.length < cap) (t : Token) : (recordFlag fw (flags, acc, n) t).1.length ≤ cap := by
  unfold recordFlag
  dsimp only
  split
  · simpa using hfull ‹_›
  · exact hcap

/-- The encoder's invariant is kept by a token that fits and covers source bytes (R60, R76, R81, R83). -/
theorem EncoderInv.afterToken {s : State} {t : Token} (h : EncoderInv s) (hspan : 1 ≤ t.span)
    (hcover : s.enc.c + t.span ≤ s.latSrcLen.toNat) (hfits : tokenRaises s t = none) :
    EncoderInv (afterToken s t) := by
  obtain ⟨-, hpartial, hcounted, hcovered, hdescribed, hunused, hwidth, hlits, hmats, hflagsCap, -, -⟩ := h
  obtain ⟨hdict, hbytes, hflags⟩ := tokenRaises_none_room hfits
  obtain ⟨hone, hlit, hmat⟩ := token_counts s.coding t
  have hf : FlagsDescribe s.fw (s.enc.tokens + 1) (recordFlag s.fw (s.flags, s.enc.facc, s.enc.fbits) t) :=
    FlagsDescribe.recordFlag ⟨hpartial, hdescribed, hunused, hwidth⟩ t
  have hsource : s.latSrcLen.toNat < 2 ^ 32 := s.latSrcLen.isLt
  have hlitCount : (Machine.afterToken s t).litCount.toNat = s.litCount.toNat + literalsIn [t] :=
    toNat_add_ofNat (by omega)
  have hmatCount : (Machine.afterToken s t).matchCount.toNat = s.matchCount.toNat + copiesIn [t] :=
    toNat_add_ofNat (by omega)
  have hlen : (Machine.afterToken s t).dict.length = s.dict.length + (dictOf s.coding [t]).length ∧
      (Machine.afterToken s t).bytes.length = s.bytes.length + (bytesOf s.coding [t]).length :=
    ⟨List.length_append, List.length_append⟩
  exact {
    cursor := hcover
    partialWord := hf.partialWord
    counted := by rw [hlitCount, hmatCount, show (Machine.afterToken s t).enc.tokens = s.enc.tokens + 1 from rfl]; omega
    covered := (by omega : s.enc.tokens + 1 ≤ s.enc.c + t.span)
    described := hf.described
    unusedBits := hf.unusedBits
    width := hf.width
    literalBytes := by omega
    matchEntries := by omega
    capacities := ⟨recordFlag_length_le hflagsCap hflags t, hlen.1 ▸ hdict, hlen.2 ▸ hbytes⟩ }

/-- The encoder's invariant is kept by tokens that fit and cover source bytes. -/
theorem EncoderInv.foldl_afterToken : ∀ {ts : List Token} {s : State}, EncoderInv s →
    (∀ t ∈ ts, 1 ≤ t.span) → s.enc.c + spanOf ts ≤ s.latSrcLen.toNat → roundRaises s ts = none →
    EncoderInv (ts.foldl Machine.afterToken s)
  | [], _, h, _, _, _ => h
  | t :: ts, s, h, hspan, hcover, hfits => by
    rw [spanOf] at hcover
    rw [roundRaises] at hfits
    cases ht : tokenRaises s t with
    | some e => simp [ht] at hfits
    | none =>
      have hnext := h.afterToken (hspan t List.mem_cons_self) (by omega) ht
      rw [List.foldl_cons]
      exact hnext.foldl_afterToken (fun u hu => hspan u (List.mem_cons_of_mem t hu))
        (by change s.enc.c + t.span + spanOf ts ≤ s.latSrcLen.toNat; omega) (by simpa [ht] using hfits)

/-! ### The tokens of a round -/

/-- Two runs of equal bytes are at most as long as their limit (R70). -/
theorem runLength_le (src : Nat → Byte) : ∀ (limit p c : Nat), runLength src p c limit ≤ limit
  | 0, _, _ => Nat.le_refl 0
  | limit + 1, p, c => by
    rw [runLength]
    split
    · exact Nat.succ_le_succ (runLength_le src limit _ _)
    · exact Nat.zero_le _

/-- A candidate is no longer than the cap, where the cap leaves room for a seed (R66, R70). -/
theorem candidateLength_le {src : Nat → Byte} {cap : Nat} (hcap : Config.seedLen ≤ cap) (p c : Nat) :
    candidateLength src p c cap ≤ cap := by
  unfold candidateLength
  split
  · have := runLength_le src (cap - Config.seedLen) (p + 3) (c + 3)
    omega
  · exact Nat.zero_le _

/-- A position of the search keeps the best candidate within the cap (R65, R66). -/
theorem improve_len_le {cap : Nat} {best : Candidate} (hbest : best.len ≤ cap) (tie : MfTie) (p : Nat) {len : Nat}
    (hlen : len ≤ cap) : (improve tie best p len).len ≤ cap := by
  unfold improve
  split
  · exact hbest
  · split
    · exact hlen
    · split
      · exact hlen
      · exact hbest

/-- The best candidate of a search is no longer than the cap (R65, R66). -/
theorem searchFrom_len_le {src : Nat → Byte} {cap : Nat} (hcap : Config.seedLen ≤ cap) (c : Nat) (tie : MfTie) :
    ∀ (todo p : Nat) {best : Candidate}, best.len ≤ cap → (searchFrom src c cap tie todo p best).len ≤ cap
  | 0, _, _, hbest => hbest
  | todo + 1, p, _, hbest =>
    searchFrom_len_le hcap c tie todo (p + 1) (improve_len_le hbest tie p (candidateLength_le hcap p c))

/-- The length FIND returns is its best candidate's (R65). -/
@[simp] theorem foundOf_len (c : Nat) (best : Candidate) : (foundOf c best).len = best.len := by
  unfold foundOf
  split
  · exact Eq.symm ‹_›
  · rfl

/-- FIND returns no match longer than the source bytes left (R66), where the variant emits matches of 3 bytes. -/
theorem find_len_le (src : Nat → Byte) (len : Nat) {maxLen : Nat} (hmax : 2 ≤ maxLen) (tie : MfTie) (c : Nat) :
    (find src len maxLen tie c).len ≤ len - c := by
  unfold find
  split
  · exact Nat.zero_le _
  · rename_i hleft
    have hcap : Config.seedLen ≤ findCap len maxLen c := by
      unfold findCap Config.seedLen at *
      omega
    have hle := searchFrom_len_le (src := src) hcap c tie (c - windowStart c) (windowStart c) (best := ⟨0, 0⟩) (Nat.zero_le _)
    rw [foundOf_len]
    exact hle.trans (Nat.min_le_right _ _)

/-- MAXLEN is at least 17 (R45, R6). -/
theorem le_maxLenOf (p : Params) (v : Variant) : 17 ≤ maxLenOf p v := by
  have hmio : 17 ≤ p.mioMaxLen.toNat := by cases p.mioMaxLen <;> decide
  cases v <;> simp [maxLenOf, codingOf, hmio]

/-- The tokens of a round cover source bytes, each at least one, and none past the end of the source (R76, R83). -/
theorem nextTokens_cover {s : State} (hc : s.enc.c < s.latSrcLen.toNat) :
    (∀ t ∈ s.nextTokens, 1 ≤ t.span) ∧ s.enc.c + spanOf s.nextTokens ≤ s.latSrcLen.toNat := by
  have hmax : 17 ≤ s.maxLen := le_maxLenOf s.params s.variant
  have hfind (c : Nat) : (s.find c).len ≤ s.latSrcLen.toNat - c := find_len_le _ _ (by omega) _ c
  have hhere := hfind s.enc.c
  have hnext := hfind (s.enc.c + 1)
  unfold State.nextTokens decideTokens Config.minMatch
  dsimp only
  split
  · simpa [spanOf, Token.span] using hc
  · split
    · simp [spanOf, Token.span]
      omega
    · simp [spanOf, Token.span]
      omega

/-! ### The size of a container -/

/-- The bytes of a flag word (R54, R55, R56). -/
theorem flagWordBytes_length (layout : Layout) (w : Word) : (flagWordBytes layout w).length = flagBytesOf layout := by
  cases layout <;> rfl

/-- The bytes of a list of words of equal size. -/
theorem length_flatMap_const {α : Type} {f : α → List Byte} {k : Nat} (hf : ∀ x, (f x).length = k) (l : List α) :
    (l.flatMap f).length = k * l.length := by
  simp [List.length_flatMap, hf, Nat.mul_comm]

/-- A Tables container is its header and its three regions (R85, R87). -/
theorem assembleTables_length (magic len : Word) (flags : List Word) (dict : List Half) (bytes : List Byte) :
    (assembleTables magic len flags dict bytes).length = assembledSize .tables flags dict bytes := by
  have hflags := length_flatMap_const (flagWordBytes_length .tables) flags
  have hdict := length_flatMap_const (f := be16) (k := 2) (fun _ => rfl) dict
  simp only [assembleTables, List.length_append, hflags, hdict, assembledSize]
  rfl

/-- The descriptors of a group, and the entries left, are the dictionary (R88). -/
theorem groupDescriptors_length (w : Word) : ∀ (count j : Nat) (dict : List Half),
    (groupDescriptors w count j dict).1.length + 2 * (groupDescriptors w count j dict).2.length = 2 * dict.length
  | 0, _, _ => Nat.zero_add _
  | count + 1, j, dict => by
    unfold groupDescriptors
    split
    · exact groupDescriptors_length w count (j + 1) dict
    · cases dict with
      | nil => exact groupDescriptors_length w count (j + 1) []
      | cons d rest =>
        have ih := groupDescriptors_length w count (j + 1) rest
        have hd : (be16 d).length = 2 := rfl
        simp only [List.length_append, List.length_cons, hd]
        omega

/-- The groups hold the flag words and no more than the dictionary (R85, R88). -/
theorem groupBodies_length_le : ∀ (flags : List Word) (tokens : Nat) (dict : List Half),
    (groupBodies flags tokens dict).length ≤ 2 * flags.length + 2 * dict.length
  | [], _, _ => Nat.zero_le _
  | w :: flags, tokens, dict => by
    have hgroup := groupDescriptors_length w (min 16 tokens) 0 dict
    have ih := groupBodies_length_le flags (tokens - 16) (groupDescriptors w (min 16 tokens) 0 dict).2
    simp only [groupBodies, List.length_append, List.length_cons, flagWordBytes_length, flagBytesOf]
    omega

/-- A token of the Stream layout moves its entries and bytes to the container (R89). -/
theorem streamToken_length (coding : Coding) (literal : Bool) (dict : List Half) (bytes : List Byte) :
    (streamToken coding literal dict bytes).1.length + 2 * (streamToken coding literal dict bytes).2.1.length +
      (streamToken coding literal dict bytes).2.2.length = 2 * dict.length + bytes.length := by
  have hbytes : (bytes.take 1).length + (bytes.drop 1).length = bytes.length := by
    rw [← List.length_append, List.take_append_drop]
  unfold streamToken
  split
  · dsimp only; omega
  · cases dict with
    | nil => simp
    | cons d rest =>
      have hrest : (rest.take 1).length + (rest.drop 1).length = rest.length := by
        rw [← List.length_append, List.take_append_drop]
      have hextra := length_flatMap_const (f := be16) (k := 2) (fun _ => rfl) (rest.take 1)
      have hd : (be16 d).length = 2 := rfl
      dsimp only
      split <;> simp only [List.length_append, List.length_cons, hextra, hd] <;> omega

/-- The tokens of a unit move their entries and bytes to the container (R89). -/
theorem unitTokens_length (coding : Coding) (w : Word) : ∀ (count j : Nat) (dict : List Half) (bytes : List Byte),
    (unitTokens coding w count j dict bytes).1.length + 2 * (unitTokens coding w count j dict bytes).2.1.length +
      (unitTokens coding w count j dict bytes).2.2.length = 2 * dict.length + bytes.length
  | 0, _, _, _ => by simp [unitTokens]
  | count + 1, j, dict, bytes => by
    have hone := streamToken_length coding (flagOf 8 w j) dict bytes
    rw [unitTokens]
    generalize streamToken coding (flagOf 8 w j) dict bytes = token at hone ⊢
    obtain ⟨out, dict', bytes'⟩ := token
    have ih := unitTokens_length coding w count (j + 1) dict' bytes'
    dsimp only at hone ⊢
    generalize unitTokens coding w count (j + 1) dict' bytes' = tail at ih ⊢
    obtain ⟨more, dict'', bytes''⟩ := tail
    simp only [List.length_append] at ih ⊢
    omega

/-- The units hold the flag words and no more than the dictionary and the bytes (R85, R89). -/
theorem unitBodies_length_le (coding : Coding) : ∀ (flags : List Word) (tokens : Nat) (dict : List Half) (bytes : List Byte),
    (unitBodies coding flags tokens dict bytes).length ≤ flags.length + 2 * dict.length + bytes.length
  | [], _, _, _ => Nat.zero_le _
  | w :: flags, tokens, dict, bytes => by
    have hunit := unitTokens_length coding w (min 8 tokens) 0 dict bytes
    rw [unitBodies]
    generalize unitTokens coding w (min 8 tokens) 0 dict bytes = unit at hunit ⊢
    obtain ⟨out, dict', bytes'⟩ := unit
    have ih := unitBodies_length_le coding flags (tokens - 8) dict' bytes'
    simp only [List.length_append, List.length_cons, flagWordBytes_length, flagBytesOf] at hunit ⊢
    omega

/-- A container is no longer than the assembled size, so the fit check covers every byte written (R85, R86). -/
theorem State.container_length_le (s : State) : s.container.length ≤ s.containerSize := by
  have hword (x : Word) : (be32 x).length = 4 := rfl
  unfold State.container State.containerSize
  cases s.layout with
  | tables => exact Nat.le_of_eq (assembleTables_length ..)
  | groups =>
    have := groupBodies_length_le s.flags s.enc.tokens s.dict
    simp only [assembleGroups, assembledSize, List.length_append, hword, Config.hdrLen, flagBytesOf]
    omega
  | stream =>
    have := unitBodies_length_le s.coding s.flags s.enc.tokens s.dict s.bytes
    simp only [assembleStream, assembledSize, List.length_append, hword, Config.hdrLen, flagBytesOf]
    omega

/-! ### The end of an ENCODE -/

/-- FINISH_FLAGS: the partial word, if any, goes to FLAGS (R82). -/
theorem finishFlags_eq (s : State) :
    finishFlags s =
      if 0 < s.enc.fbits then
        if s.flags.length < s.params.flagsCap.toNat then
          .ok { s with flags := s.flags ++ [s.enc.facc], enc := { s.enc with fbits := 0 } }
        else .error (.flagsFull, s)
      else .ok s := by
  unfold finishFlags appendFlags
  refine ite_congr rfl (fun _ => ?_) fun _ => rfl
  by_cases hroom : s.flags.length < s.params.flagsCap.toNat <;> simp [hroom]

/-- FINISH_FLAGS changes the streams and the encoder alone, and nothing where it raises (R60, R82). -/
theorem finishFlags_cases (s : State) :
    finishFlags s = .error (.flagsFull, s) ∨ ∃ t, finishFlags s = .ok t ∧ SameButStreams s t := by
  rw [finishFlags_eq]
  split
  · split
    · exact .inr ⟨_, rfl, _, _, _, _, rfl⟩
    · exact .inl rfl
  · exact .inr ⟨s, rfl, .refl s⟩

/-- Everything the end of an ENCODE can do: an error, or a container that fits the output region (R86, R90, R112). -/
theorem finishEncode_cases (s : State) :
    (∃ e t, finishEncode s = .error (e, t) ∧ SameButStreams s t) ∨
    ∃ t, finishEncode s = .ok ((t.writeOutput t.container).release.complete t.containerSize) ∧ SameButStreams s t ∧
      t.containerSize ≤ t.latDstCap.toNat := by
  unfold finishEncode
  rcases finishFlags_cases s with hraise | ⟨t, hok, hsame⟩
  · exact .inl ⟨_, s, by rw [hraise], .refl s⟩
  · rw [hok]
    dsimp only
    split
    · exact .inl ⟨_, t, rfl, hsame⟩
    · exact .inr ⟨t, rfl, hsame, Nat.le_of_not_lt ‹_›⟩

end Sys2Proof.Machine

/-! The decoder's operations: the range of what it reads (R94, R97), and that a fetched token is a literal or a well-formed
match of the running coding (R99, R100). -/

namespace Sys2Proof.Machine

/-! ### The decoder's reads -/

/-- A big-endian value after a value `acc` (R7). -/
theorem bigEndianFrom_lt : ∀ (bytes : List Byte) (acc : Nat), bigEndianFrom acc bytes < (acc + 1) * 256 ^ bytes.length
  | [], acc => by simp [bigEndianFrom]
  | b :: bytes, acc => by
    rw [bigEndianFrom, List.length_cons, Nat.pow_succ']
    calc bigEndianFrom (acc * 256 + b.toNat) bytes < (acc * 256 + b.toNat + 1) * 256 ^ bytes.length := bigEndianFrom_lt bytes _
      _ ≤ (acc + 1) * 256 * 256 ^ bytes.length := Nat.mul_le_mul_right _ (by have := b.isLt; omega)
      _ = (acc + 1) * (256 * 256 ^ bytes.length) := Nat.mul_assoc _ _ _

/-- The value of `w` bytes of the container (R94). -/
theorem containerField_lt (s : State) (x w : Nat) : containerField s x w < 256 ^ w := by
  simpa [containerField, bigEndian] using bigEndianFrom_lt ((List.range w).map fun k => s.srcByte (x + k)) 0

/-- A flag word read from the container has FW bits (R97). -/
theorem flagWord_lt (s : State) (x : Nat) : (BitVec.ofNat 32 (containerField s x (s.fw / 8))).toNat < 2 ^ s.fw := by
  have hfw : 8 * (s.fw / 8) = s.fw := by simp [State.fw, flagWidthOf]
  calc (BitVec.ofNat 32 (containerField s x (s.fw / 8))).toNat ≤ containerField s x (s.fw / 8) := by
        rw [BitVec.toNat_ofNat]; exact Nat.mod_le _ _
    _ < 256 ^ (s.fw / 8) := containerField_lt s x _
    _ = 2 ^ s.fw := by rw [show 256 = 2 ^ 8 from rfl, ← Nat.pow_mul, hfw]

/-- What every read of a stream keeps, the reading of a match keeps (R100, R101). -/
theorem fetchMatch_keeps {P : State → Prop}
    (hread : ∀ {st w e v} {s t : State}, P s → readStream st w e s = .ok (v, t) → P t) {s t : State} {i : Instr} (hs : P s)
    (h : fetchMatch s = .ok (i, t)) : P t := by
  unfold fetchMatch at h
  split at h
  · cases h
  · rename_i hdesc
    dsimp only at h
    split at h
    · cases h
      exact hread hs hdesc
    all_goals
      split at h
      · cases h
      · rename_i hextra
        cases h
        exact hread (hread hs hdesc) hextra

/-! ### The tokens -/

/-- A well-formed match token of a coding is a match of at least one byte (R50, R51, R52, R100). -/
theorem exec_match {i : Instr} {coding : Coding} (hwf : i.wf = true) (hc : i.coding? = some coding) :
    ∃ n off, 1 ≤ n ∧ ∀ s, exec i s = doMatch coding n off s := by
  cases i with
  | matchMio nib off => cases hc; exact ⟨_, off, Nat.le_add_left 1 _, fun _ => rfl⟩
  | matchYayS nib off =>
    cases hc
    have hn : ¬ nib.toNat < 1 := Nat.not_lt.2 (of_decide_eq_true hwf)
    exact ⟨_, off, Nat.le_add_left 1 _, fun _ => if_neg hn⟩
  | matchYayL off e => cases hc; exact ⟨_, off, Nat.le_add_left 1 _, fun _ => rfl⟩
  | matchRvlS nib off =>
    cases hc
    have hn : ¬ nib.toNat < 2 := Nat.not_lt.2 (of_decide_eq_true hwf)
    exact ⟨_, off, Nat.le_add_left 1 _, fun _ => if_neg hn⟩
  | matchRvlM off e => cases hc; exact ⟨_, off, Nat.le_add_left 1 _, fun _ => rfl⟩
  | matchRvlL off x => cases hc; exact ⟨_, off, Nat.le_add_left 1 _, fun _ => rfl⟩
  | _ => cases hc

/-- A match read from the container is a well-formed match of the running coding (R100, R101). -/
theorem fetchMatch_instr {s t : State} {i : Instr} (h : fetchMatch s = .ok (i, t)) :
    i.wf = true ∧ i.coding? = some s.coding := by
  have hmatch (d : Half) (x : Nat) : (matchOf s.coding d x).wf = true ∧ (matchOf s.coding d x).coding? = some s.coding :=
    ⟨matchOf_wf _ d x, matchOf_coding? _ d x⟩
  unfold fetchMatch at h
  split at h
  · cases h
  · dsimp only at h
    split at h
    · cases h
      exact hmatch _ _
    all_goals
      split at h
      · cases h
      · cases h
        exact hmatch _ _

/-- A token read from the container is a literal or a well-formed match of the running coding (R96). -/
theorem fetchToken_instr {s t : State} {i : Instr} (h : fetchToken s = .ok (i, t)) :
    (∃ b, i = .lit b) ∨ (i.wf = true ∧ i.coding? = some s.coding) := by
  unfold fetchToken at h
  split at h
  · unfold fetchLiteral at h
    split at h
    · cases h
    · cases h
      exact .inl ⟨_, rfl⟩
  · exact .inr (fetchMatch_instr (s := consumeFlag s) h)

/-- Everything a literal token can do (R99). -/
theorem execLit_cases (b : Byte) (s : State) :
    (∃ r, execLit b s = .refused r) ∨ (tokenGuard none s = none ∧ execLit b s = .next (s.putLiteral b)) := by
  unfold execLit
  cases tokenGuard none s with
  | some r => exact .inl ⟨r, rfl⟩
  | none => exact .inr ⟨rfl, rfl⟩

end Sys2Proof.Machine

/-! What the engine does not see (R13). The region registers and the host's own fields are one part of the state, its host
side. Every operation of the engine does the same before a change of that part as after, so the engine's step neither reads
nor writes it. -/

namespace Sys2Proof.Machine

/-! ### The host side -/

/-- The part of the state the engine neither reads nor writes: the region registers (R13) and the host's own fields. -/
structure HostSide where
  srcAddr : Word
  srcLen : Word
  dstAddr : Word
  dstCap : Word
  host : List HostOp
  readData : Word
  fresh : Nat
  litSeen : Word
  matchSeen : Word

/-- The host side of a state. -/
def State.hostSide (s : State) : HostSide :=
  ⟨s.srcAddr, s.srcLen, s.dstAddr, s.dstCap, s.host, s.readData, s.fresh, s.litSeen, s.matchSeen⟩

/-- A state with its host side changed. -/
def State.mapHostSide (f : HostSide → HostSide) (s : State) : State :=
  { s with
    srcAddr := (f s.hostSide).srcAddr
    srcLen := (f s.hostSide).srcLen
    dstAddr := (f s.hostSide).dstAddr
    dstCap := (f s.hostSide).dstCap
    host := (f s.hostSide).host
    readData := (f s.hostSide).readData
    fresh := (f s.hostSide).fresh
    litSeen := (f s.hostSide).litSeen
    matchSeen := (f s.hostSide).matchSeen }

section
variable (f : HostSide → HostSide) (s : State)

@[simp] theorem State.mapHostSide_phase : (s.mapHostSide f).phase = s.phase := rfl
@[simp] theorem State.mapHostSide_coding : (s.mapHostSide f).coding = s.coding := rfl
@[simp] theorem State.mapHostSide_fw : (s.mapHostSide f).fw = s.fw := rfl

/-- What a raising operation answers, with the host side of its state changed. -/
def mapProgress : Progress → Progress
  | .ok t => .ok (t.mapHostSide f)
  | .error (e, t) => .error (e, t.mapHostSide f)

/-- What a read of the decoder answers, with the host side of its state changed. -/
def mapRead {α : Type} : Except ErrorCause (α × State) → Except ErrorCause (α × State)
  | .ok (x, t) => .ok (x, t.mapHostSide f)
  | .error e => .error e

/-! ### The encoder's operations -/

/-- The end of a raising operation does not see the host side. -/
theorem settle_mapProgress (p : Progress) : settle (mapProgress f p) = (settle p).mapHostSide f := by
  cases p <;> rfl

/-- APPEND(DICT, x) does not see the host side. -/
theorem appendDict_mapHostSide (x : Half) : appendDict x (s.mapHostSide f) = mapProgress f (appendDict x s) := by
  rw [appendDict, appendDict, apply_ite (mapProgress f)]
  rfl

/-- APPEND(BYTES, x) does not see the host side. -/
theorem appendBytes_mapHostSide (x : Byte) : appendBytes x (s.mapHostSide f) = mapProgress f (appendBytes x s) := by
  rw [appendBytes, appendBytes, apply_ite (mapProgress f)]
  rfl

/-- The appends of a token's entries do not see the host side. -/
theorem appendAllDict_mapHostSide : ∀ (l : List Half) (s : State),
    appendAllDict l (s.mapHostSide f) = mapProgress f (appendAllDict l s)
  | [], _ => rfl
  | x :: l, s => by
    rw [appendAllDict, appendAllDict, appendDict_mapHostSide]
    cases appendDict x s with
    | error e => rfl
    | ok t => exact appendAllDict_mapHostSide l t

/-- The appends of a token's bytes do not see the host side. -/
theorem appendAllBytes_mapHostSide : ∀ (l : List Byte) (s : State),
    appendAllBytes l (s.mapHostSide f) = mapProgress f (appendAllBytes l s)
  | [], _ => rfl
  | x :: l, s => by
    rw [appendAllBytes, appendAllBytes, appendBytes_mapHostSide]
    cases appendBytes x s with
    | error e => rfl
    | ok t => exact appendAllBytes_mapHostSide l t

/-- Operations in turn that do not see the host side do not see it together. -/
theorem mapProgress_bind (p : Progress) {g : State → Progress} (hg : ∀ t, g (t.mapHostSide f) = mapProgress f (g t)) :
    (mapProgress f p >>= g) = mapProgress f (p >>= g) := by
  cases p with
  | error e => rfl
  | ok t => exact hg t

/-- FLAGBIT does not see the host side. -/
theorem flagBit_mapHostSide (bit : Bool) (s : State) : flagBit bit (s.mapHostSide f) = mapProgress f (flagBit bit s) := by
  rw [flagBit_eq, flagBit_eq, apply_ite (mapProgress f), apply_ite (mapProgress f)]
  rfl

/-- The emission of a token does not see the host side. -/
theorem emitToken_mapHostSide (t : Token) (s : State) :
    emitToken t (s.mapHostSide f) = mapProgress f (emitToken t s) := by
  rw [emitToken_eq, emitToken_eq, State.mapHostSide_coding, appendAllDict_mapHostSide]
  refine mapProgress_bind f _ fun a => ?_
  rw [appendAllBytes_mapHostSide]
  refine mapProgress_bind f _ fun b => ?_
  rw [flagBit_mapHostSide]
  exact mapProgress_bind f _ fun _ => rfl

/-- The emission of a round's tokens does not see the host side. -/
theorem emitTokens_mapHostSide : ∀ (ts : List Token) (s : State),
    emitTokens ts (s.mapHostSide f) = mapProgress f (emitTokens ts s)
  | [], _ => rfl
  | t :: ts, s => by
    rw [emitTokens, emitTokens, emitToken_mapHostSide]
    cases emitToken t s with
    | error e => rfl
    | ok u => exact emitTokens_mapHostSide ts u

/-- FIND does not see the host side. -/
theorem State.noteFind_mapHostSide (c : Nat) (s : State) : (s.mapHostSide f).noteFind c = (s.noteFind c).mapHostSide f := by
  rw [State.noteFind, State.noteFind, apply_ite (State.mapHostSide f)]
  rfl

/-- The FINDs of a round do not see the host side. -/
theorem State.noteFinds_mapHostSide (s : State) : (s.mapHostSide f).noteFinds = s.noteFinds.mapHostSide f := by
  unfold State.noteFinds
  dsimp only
  rw [apply_ite (State.mapHostSide f), ← State.noteFind_mapHostSide, ← State.noteFind_mapHostSide,
    ← State.noteFind_mapHostSide]
  rfl

/-- A round of an ENCODE does not see the host side. -/
theorem encodeRound_mapHostSide (s : State) : encodeRound (s.mapHostSide f) = mapProgress f (encodeRound s) := by
  rw [encodeRound, encodeRound, State.noteFinds_mapHostSide, emitTokens_mapHostSide]
  rfl

/-- FINISH_FLAGS does not see the host side. -/
theorem finishFlags_mapHostSide (s : State) : finishFlags (s.mapHostSide f) = mapProgress f (finishFlags s) := by
  rw [finishFlags_eq, finishFlags_eq, apply_ite (mapProgress f), apply_ite (mapProgress f)]
  rfl

/-- The end of an ENCODE does not see the host side. -/
theorem finishEncode_mapHostSide (s : State) : finishEncode (s.mapHostSide f) = mapProgress f (finishEncode s) := by
  rw [finishEncode, finishEncode, finishFlags_mapHostSide]
  cases finishFlags s with
  | error e => rfl
  | ok t =>
    dsimp only
    rw [apply_ite (mapProgress f)]
    rfl

/-- The engine's step of an ENCODE does not see the host side. -/
theorem encodeStep_mapHostSide (s : State) :
    encodeStep (s.mapHostSide f) = onNext (State.mapHostSide f) (encodeStep s) := by
  rw [encodeStep, encodeStep, encodeRound_mapHostSide, finishEncode_mapHostSide, settle_mapProgress, settle_mapProgress,
    apply_ite (onNext (State.mapHostSide f)), apply_ite (onNext (State.mapHostSide f))]
  rfl

/-! ### The decoder's operations -/

/-- A read of a stream does not see the host side. -/
theorem readStream_mapHostSide (st : InStream) (w : Nat) (e : ErrorCause) (s : State) :
    readStream st w e (s.mapHostSide f) = mapRead f (readStream st w e s) := by
  unfold readStream
  dsimp only
  rw [apply_ite (mapRead f)]
  rfl

/-- The reading of a match does not see the host side. -/
theorem fetchMatch_mapHostSide (s : State) : fetchMatch (s.mapHostSide f) = mapRead f (fetchMatch s) := by
  unfold fetchMatch
  rw [readStream_mapHostSide, State.mapHostSide_coding]
  cases readStream .d 2 .descriptorOverrun s with
  | error e => rfl
  | ok p =>
    obtain ⟨v, t⟩ := p
    dsimp only [mapRead]
    split
    · rfl
    · rw [readStream_mapHostSide]
      cases readStream .y 1 .extraOverrun t <;> rfl
    · rw [readStream_mapHostSide]
      cases readStream .d 2 .extraOverrun t <;> rfl

/-- The reading of a token does not see the host side. -/
theorem fetchToken_mapHostSide (s : State) : fetchToken (s.mapHostSide f) = mapRead f (fetchToken s) := by
  unfold fetchToken fetchLiteral
  rw [apply_ite (mapRead f), ← fetchMatch_mapHostSide]
  refine ite_congr rfl (fun _ => ?_) fun _ => rfl
  rw [show consumeFlag (s.mapHostSide f) = (consumeFlag s).mapHostSide f from rfl, readStream_mapHostSide]
  cases readStream .y 1 .literalOverrun (consumeFlag s) <;> rfl

/-- A literal does not see the host side. -/
theorem execLit_mapHostSide (b : Byte) (s : State) :
    execLit b (s.mapHostSide f) = onNext (State.mapHostSide f) (execLit b s) := by
  rw [execLit, execLit, show tokenGuard none (s.mapHostSide f) = tokenGuard none s from rfl]
  cases tokenGuard none s <;> rfl

/-- A match does not see the host side. -/
theorem doMatch_mapHostSide (coding : Coding) (n : Nat) (off : Offset) (s : State) :
    doMatch coding n off (s.mapHostSide f) = onNext (State.mapHostSide f) (doMatch coding n off s) := by
  rw [doMatch, doMatch, show tokenGuard (some coding) (s.mapHostSide f) = tokenGuard (some coding) s from rfl]
  cases tokenGuard (some coding) s with
  | some r => rfl
  | none =>
    rw [State.runMatch, State.runMatch, show checkMatch n off.toNat (s.mapHostSide f) = checkMatch n off.toNat s from rfl]
    cases checkMatch n off.toNat s <;> rfl

/-- A fetched token does not see the host side. -/
theorem exec_fetched_mapHostSide {s t : State} {i : Instr} (h : fetchToken s = .ok (i, t)) :
    exec i (t.mapHostSide f) = onNext (State.mapHostSide f) (exec i t) := by
  rcases fetchToken_instr h with ⟨b, rfl⟩ | ⟨hwf, hc⟩
  · exact execLit_mapHostSide f b t
  · obtain ⟨n, off, -, hexec⟩ := exec_match hwf hc
    rw [hexec, hexec, doMatch_mapHostSide]

/-- The engine's step of a DECODE does not see the host side. -/
theorem decodeStep_mapHostSide (s : State) :
    decodeStep (s.mapHostSide f) = onNext (State.mapHostSide f) (decodeStep s) := by
  unfold decodeStep
  rw [apply_ite (onNext (State.mapHostSide f)), apply_ite (onNext (State.mapHostSide f))]
  refine ite_congr rfl (fun _ => rfl) fun _ => ite_congr rfl (fun _ => rfl) fun _ => ?_
  rw [show decoderState (s.mapHostSide f) = decoderState s from rfl]
  cases decoderState s with
  | readFlagWord =>
    unfold readFlagWord
    dsimp only
    rw [readStream_mapHostSide, State.mapHostSide_fw]
    cases readStream .f (s.fw / 8) .flagOverrun s <;> rfl
  | consumeBit =>
    dsimp only
    rw [fetchToken_mapHostSide]
    cases hfetch : fetchToken s with
    | error e => rfl
    | ok p => exact exec_fetched_mapHostSide f hfetch

/-! ### The engine's step and the host side -/

/-- The engine's step does not see the host side: it does the same before a change of it as after (R13). -/
theorem engineStep_mapHostSide (s : State) :
    engineStep (s.mapHostSide f) = onNext (State.mapHostSide f) (engineStep s) := by
  unfold engineStep
  rw [State.mapHostSide_phase]
  cases s.phase with
  | idle => rfl
  | runEncode => exact encodeStep_mapHostSide f s
  | runDecode => exact decodeStep_mapHostSide f s

end

/-- The engine's step leaves the host side alone. -/
theorem hostSide_of_engineStep {s t : State} (h : engineStep s = .next t) : t.hostSide = s.hostSide := by
  have hmap := engineStep_mapHostSide (fun _ => s.hostSide) s
  rw [show s.mapHostSide (fun _ => s.hostSide) = s from rfl, h, onNext] at hmap
  rw [Host.Outcome.next.inj hmap]
  rfl

/-- Settles O46: the region registers are part of the host side, which the engine's step does not see. -/
theorem runningCommandSeesOnlyTheLatches : Obligations.RunningCommandSeesOnlyTheLatches := by
  intro s a l d c
  exact engineStep_mapHostSide (fun x => { x with srcAddr := a, srcLen := l, dstAddr := d, dstCap := c }) s

/-- Settles O41: a POLL and an aligned read deliver a register; the engine's step of a POLL that waits leaves the script and
the value read alone. -/
theorem registerReads : Obligations.RegisterReads := by
  refine ⟨fun s rest hhost => ⟨fun hb => ?_, fun hb => ?_⟩, fun s off rest hb hal hhost => ?_⟩
  · rw [step_of_host hhost fun _ => hb]
    rfl
  · have hstep := step_of_waiting_poll hhost hb
    refine ⟨hstep, fun t ht => ?_⟩
    have hside := hostSide_of_engineStep (hstep.symm.trans ht)
    exact ⟨(congrArg HostSide.host hside).trans hhost, congrArg HostSide.readData hside⟩
  · have hidle : ({ s with host := rest } : State).busy = false := hb
    rw [step_of_opRD hhost, State.readRegister_word hidle hal, State.register_eq]
    rfl

end Sys2Proof.Machine

/-! Every step keeps the invariant of the machine, operation by operation: an error and a completion leave an idle machine;
the engine's steps keep the encoder's and the decoder's counts and cursors; a command starts in a legal context; and the
host's other operations change its own side, memory, or nothing. -/

namespace Sys2Proof.Machine

/-! ### The parts of the invariant -/

/-- Two states in the same phase of the same command, as far as the registers show it. -/
structure SameCommand (s t : State) : Prop where
  phase : t.phase = s.phase
  status : t.status = s.status
  errInfo : t.errInfo = s.errInfo
  outLen : t.outLen = s.outLen
  latSrcAddr : t.latSrcAddr = s.latSrcAddr
  latSrcLen : t.latSrcLen = s.latSrcLen
  latDstAddr : t.latDstAddr = s.latDstAddr
  latDstCap : t.latDstCap = s.latDstCap
  params : t.params = s.params

/-- What is left to show of a step that does not end the command. -/
theorem Inv.of_sameCommand {s t : State} (h : Inv s) (hsame : SameCommand s t) (hmem : Memory.wf t.mem = true)
    (henc : t.phase = .runEncode → EncoderInv t) (hdec : t.phase = .runDecode → DecoderInv t)
    (hbuf : t.phase ≠ .runEncode → BuffersEmpty t) (hfinder : FinderInv t) : Inv t := by
  obtain ⟨hphase, hstatus, herr, hout, hsa, hsl, hda, hdc, hparams⟩ := hsame
  refine ⟨hmem, hparams ▸ h.params, ⟨fun hp => ?_, fun hp => ?_⟩, fun hp => ?_, henc, hdec, hbuf, hfinder⟩
  · simpa only [IdleStatus, hstatus, herr, hout] using h.status.idle (hphase ▸ hp)
  · simpa only [RunningStatus, hstatus, herr, hout] using h.status.running (hphase ▸ hp)
  · obtain ⟨hone, hmax, hlegal, hapart⟩ := h.context (hphase ▸ hp)
    refine ⟨by rwa [hsl], by rwa [hsl], ?_, by rwa [hsa, hsl, hda, hdc]⟩
    rwa [State.regionsLegal, hsa, hsl, hda, hdc]

/-- The invariant of an idle machine. -/
theorem inv_of_idle {s : State} (hp : s.phase = .idle) (hmem : Memory.wf s.mem = true) (hparams : s.params.wf = true)
    (hstatus : IdleStatus s) (hbuf : BuffersEmpty s) (hfinder : FinderInv s) : Inv s where
  memory := hmem
  params := hparams
  status := ⟨fun _ => hstatus, fun h => absurd hp h⟩
  context h := absurd hp h
  encoder h := by simp [hp] at h
  decoder h := by simp [hp] at h
  buffers _ := hbuf
  finder := hfinder

/-- An error leaves an idle machine, whatever its operation did to the streams, the registers and the latches (R122). -/
theorem Inv.errorEntry_of_same {s t : State} (h : Inv s) (hmem : t.mem = s.mem) (hparams : t.params = s.params)
    (hseed : t.seed = s.seed) (hskip : t.skip = s.skip) (e : ErrorCause) : Inv (t.errorEntry e) := by
  obtain ⟨hthree, hentries, hrange⟩ := h.finder
  have hfinder : FinderInv (t.errorEntry e) := ⟨hseed ▸ hthree, hskip ▸ hentries, hskip ▸ hrange⟩
  exact inv_of_idle rfl (hmem ▸ h.memory) (hparams ▸ h.params) (.inr (.inr ⟨e, rfl, rfl, rfl⟩)) ⟨rfl, rfl, rfl⟩ hfinder

/-- An error keeps the invariant (R122). -/
theorem Inv.errorEntry {s : State} (h : Inv s) (e : ErrorCause) : Inv (s.errorEntry e) :=
  h.errorEntry_of_same rfl rfl rfl rfl e

/-- The completion of a command leaves the machine idle (R114). -/
theorem inv_complete {s : State} (hmem : Memory.wf s.mem = true) (hparams : s.params.wf = true) (hfinder : FinderInv s)
    (herr : s.errInfo = 0) (hbuf : BuffersEmpty s) (n : Nat) : Inv (s.complete n) :=
  inv_of_idle rfl hmem hparams (.inr (.inl ⟨rfl, herr⟩)) hbuf { hfinder with }

/-- The buffers are empty while a DECODE runs (R21). -/
theorem Inv.buffersEmpty_of_decode {s : State} (h : Inv s) (hp : s.phase = .runDecode) : BuffersEmpty s :=
  h.buffers (by simp [hp])

/-! ### The engine's step of an ENCODE -/

/-- Every entry of SKIP is 1, 2 or 3 (R73). -/
theorem skipTable_entries (seed : List Byte) : ∀ k ∈ skipTable seed, 1 ≤ k ∧ k ≤ 3 := by
  intro k hk
  rcases List.mem_or_eq_of_mem_set hk with hk | rfl
  · rcases List.mem_or_eq_of_mem_set hk with hk | rfl
    · rw [List.eq_of_mem_replicate hk]
      decide
    · decide
  · decide

/-- SKIP has an entry for every byte value (R73). -/
theorem skipTable_length (seed : List Byte) : (skipTable seed).length = 256 := by
  rw [skipTable, List.length_set, List.length_set, List.length_replicate]

/-- A FIND keeps the match finder's state in range (R68, R73). -/
theorem FinderInv.noteFind {s : State} (h : FinderInv s) (c : Nat) : FinderInv (s.noteFind c) := by
  unfold State.noteFind
  split
  · exact h
  · exact ⟨rfl, skipTable_length _, skipTable_entries _⟩

/-- The FINDs of a round keep the match finder's state in range. -/
theorem FinderInv.noteFinds {s : State} (h : FinderInv s) : FinderInv s.noteFinds := by
  unfold State.noteFinds
  dsimp only
  split
  · exact h.noteFind _
  · exact (h.noteFind _).noteFind _

/-- The FINDs of a round keep the invariant. -/
theorem Inv.noteFinds {s : State} (h : Inv s) : Inv s.noteFinds := by
  have hfinder := h.finder.noteFinds
  rw [State.noteFinds_eq] at hfinder ⊢
  exact h.of_sameCommand ⟨rfl, rfl, rfl, rfl, rfl, rfl, rfl, rfl, rfl⟩ h.memory (fun hp => { h.encoder hp with })
    (fun hp => { h.decoder hp with }) h.buffers hfinder

/-- An error raised in the middle of a running ENCODE keeps the invariant. -/
theorem Inv.errorEntry_of_sameButStreams {s t : State} (h : Inv s) (hsame : SameButStreams s t) (e : ErrorCause) :
    Inv (t.errorEntry e) := by
  obtain ⟨_, _, _, _, rfl⟩ := hsame
  refine h.errorEntry_of_same ?_ ?_ ?_ ?_ e <;> rfl

/-- Emitted tokens of a running ENCODE keep the invariant, if they keep the encoder's. -/
theorem Inv.foldl_afterToken {s : State} (h : Inv s) (hp : s.phase = .runEncode) (ts : List Token)
    (henc : EncoderInv (ts.foldl afterToken s)) : Inv (ts.foldl afterToken s) := by
  obtain ⟨_, _, _, _, _, _, heq⟩ := foldl_afterToken_eq ts s
  rw [heq] at henc ⊢
  exact h.of_sameCommand ⟨rfl, rfl, rfl, rfl, rfl, rfl, rfl, rfl, rfl⟩ h.memory (fun _ => henc)
    (fun hp' => by simp [hp] at hp') (fun hp' => absurd hp hp') { h.finder with }

/-- A round of a running ENCODE keeps the invariant: its tokens are emitted, or the first that raises ends the command. -/
theorem Inv.encodeRound {s : State} (h : Inv s) (hp : s.phase = .runEncode) (hc : s.enc.c < s.latSrcLen.toNat) :
    Inv (settle (encodeRound s)) := by
  have hfound : Inv s.noteFinds := h.noteFinds
  have hp' : s.noteFinds.phase = .runEncode := by rw [State.noteFinds_eq]; exact hp
  have henc := hfound.encoder hp'
  obtain ⟨hspan, hcover⟩ := nextTokens_cover hc
  unfold Machine.encodeRound
  cases hr : roundRaises s.noteFinds s.nextTokens with
  | none =>
    rw [emitTokens_fits hr]
    refine hfound.foldl_afterToken hp' _ (henc.foldl_afterToken hspan ?_ hr)
    rw [State.noteFinds_eq]
    exact hcover
  | some p =>
    obtain ⟨e, completed⟩ := p
    obtain ⟨-, hdict, hbytes⟩ := henc.capacities
    obtain ⟨u, hu, hsame⟩ := emitTokens_raises hdict hbytes hr
    rw [hu]
    obtain ⟨_, _, _, _, rfl⟩ := hsame
    obtain ⟨_, _, _, _, _, _, heq⟩ := foldl_afterToken_eq completed s.noteFinds
    rw [heq]
    refine hfound.errorEntry_of_same ?_ ?_ ?_ ?_ e <;> rfl

/-- The bytes of a legal region lie in the address space (R37). -/
theorem regionLegal_iff (base len : Word) :
    regionLegal base len = true ↔ base.toNat + len.toNat ≤ Config.addressSpace := by
  simp [regionLegal]

/-- The latched regions of a running command lie in the address space (R37). -/
theorem ContextInv.regions {s : State} (h : ContextInv s) :
    s.latSrcAddr.toNat + s.latSrcLen.toNat ≤ Config.addressSpace ∧
      s.latDstAddr.toNat + s.latDstCap.toNat ≤ Config.addressSpace := by
  simpa [State.regionsLegal, regionLegal_iff] using h.legal

/-- The end of an ENCODE keeps the invariant (R112). -/
theorem Inv.finishEncode {s : State} (h : Inv s) (hp : s.phase = .runEncode) : Inv (settle (finishEncode s)) := by
  have hdst := (h.context (by simp [hp])).regions.2
  rcases finishEncode_cases s with ⟨e, t, hfin, hsame⟩ | ⟨t, hfin, hsame, hfits⟩
  · rw [hfin]
    exact h.errorEntry_of_sameButStreams hsame e
  · rw [hfin]
    have hlen := t.container_length_le
    generalize t.container = out at hlen ⊢
    obtain ⟨_, _, _, _, rfl⟩ := hsame
    refine inv_complete (Memory.writeBytes_wf out ?_ h.memory) ?_ ?_ ?_ ⟨rfl, rfl, rfl⟩ _
    · dsimp only at hfits ⊢
      omega
    · exact h.params
    · exact { h.finder with }
    · obtain ⟨-, herr, -⟩ := h.status.running (by simp [hp])
      exact herr

/-- The engine's step of an ENCODE keeps the invariant (R76, R112). -/
theorem Inv.encodeStep {s t : State} (h : Inv s) (hp : s.phase = .runEncode) (hstep : encodeStep s = .next t) : Inv t := by
  rcases encodeStep_cases s with ⟨-, hstop⟩ | ⟨-, hc, hround⟩ | ⟨-, -, hend⟩
  · cases hstop.symm.trans hstep
  · cases hround.symm.trans hstep
    exact h.encodeRound hp hc
  · cases hend.symm.trans hstep
    exact h.finishEncode hp

/-! ### The engine's step of a DECODE -/

/-- A cursor that stays in its range keeps the decoder's invariant (R94). -/
theorem DecoderInv.setCursor {s : State} (h : DecoderInv s) (c : Cursor) {x : Nat} (hx : x ≤ cursorLimit s.dec c) :
    DecoderInv { s with dec := setCursor c x s.dec } := by
  cases c with
  | fp => exact { h with flagCursor := ⟨hx, h.flagCursor.2⟩ }
  | dp => exact { h with dictCursor := ⟨hx, h.dictCursor.2⟩ }
  | bp => exact { h with byteCursor := ⟨hx, h.byteCursor.2⟩ }

/-- A change of the decoder that keeps its invariant keeps the machine's. -/
theorem Inv.withDec {s : State} {d : Decoder} (h : Inv s) (hdec : DecoderInv s → DecoderInv { s with dec := d }) :
    Inv { s with dec := d } :=
  h.of_sameCommand ⟨rfl, rfl, rfl, rfl, rfl, rfl, rfl, rfl, rfl⟩ h.memory (fun hp => { h.encoder hp with })
    (fun hp => hdec (h.decoder hp)) h.buffers { h.finder with }

/-- A read of a stream keeps the invariant (R94). -/
theorem Inv.readStream {st : InStream} {w v : Nat} {e : ErrorCause} {s t : State} (h : Inv s)
    (hread : readStream st w e s = .ok (v, t)) : Inv t := by
  rcases readStream_cases st w e s with ⟨-, he⟩ | ⟨hle, hok⟩
  · cases he.symm.trans hread
  · cases hok.symm.trans hread
    exact h.withDec fun hdec => hdec.setCursor _ hle

/-- The reading of a flag word keeps the invariant (R97). -/
theorem Inv.readFlagWord {s t : State} (h : Inv s) (hread : readFlagWord s = .ok t) : Inv t := by
  unfold Machine.readFlagWord at hread
  rcases readStream_cases .f (s.fw / 8) .flagOverrun s with ⟨-, he⟩ | ⟨hle, hok⟩
  · rw [he] at hread
    cases hread
  · rw [hok] at hread
    cases hread
    refine h.withDec fun hdec => ?_
    exact { hdec.setCursor _ hle with flagBits := ⟨Nat.le_refl s.fw, flagWord_lt s _⟩ }

/-- ConsumeBit keeps the invariant (R98). -/
theorem Inv.consumeFlag {s : State} (h : Inv s) : Inv (consumeFlag s) :=
  h.withDec fun hdec => { hdec with flagBits := ⟨(Nat.sub_le _ _).trans hdec.flagBits.1, hdec.flagBits.2⟩ }

/-- The reading of a token keeps the invariant (R98, R99, R100, R101). -/
theorem Inv.fetchToken {s t : State} {i : Instr} (h : Inv s) (hfetch : fetchToken s = .ok (i, t)) : Inv t := by
  unfold Machine.fetchToken at hfetch
  split at hfetch
  · unfold fetchLiteral at hfetch
    split at hfetch
    · cases hfetch
    · rename_i hread
      cases hfetch
      exact h.consumeFlag.readStream hread
  · exact fetchMatch_keeps Inv.readStream h.consumeFlag hfetch

/-- A counter's increment adds at most 1, also where it wraps. -/
theorem toNat_add_one_le (x : Word) : (x + 1).toNat ≤ x.toNat + 1 := by
  rw [BitVec.toNat_add]
  exact Nat.mod_le _ _

/-- A literal that can execute keeps the invariant (R99). -/
theorem Inv.putLiteral {s : State} (h : Inv s) {coding : Option Coding} (hg : tokenGuard coding s = none) (b : Byte) :
    Inv (s.putLiteral b) := by
  obtain ⟨hp, -, hroom, -⟩ := (tokenGuard_eq_none_iff _ _).1 hg
  have hdec := h.decoder hp
  have hdst := (h.context (by simp [hp])).regions.2
  have hfits := hdec.fits
  have hcounted := hdec.counted
  have hlit := toNat_add_one_le s.litCount
  refine h.of_sameCommand ⟨rfl, rfl, rfl, rfl, rfl, rfl, rfl, rfl, rfl⟩ (Memory.write_wf ?_ h.memory)
    (fun hp' => by simp [hp] at hp') (fun _ => ?_) h.buffers { h.finder with }
  · rw [regionAddress]
    omega
  · refine { hdec with output := ?_, counted := ?_ }
    · exact hroom
    · change (s.litCount + 1).toNat + s.matchCount.toNat ≤ s.dec.o + 1
      omega

/-- A match that CHECK_MATCH passes keeps the invariant (R100, R103). -/
theorem Inv.putMatch {s : State} (h : Inv s) (hp : s.phase = .runDecode) {n off : Nat} (hn : 1 ≤ n)
    (hroom : s.dec.o + n ≤ s.dec.n) : Inv (s.putMatch n off) := by
  have hdec := h.decoder hp
  have hdst := (h.context (by simp [hp])).regions.2
  have hfits := hdec.fits
  have hcounted := hdec.counted
  have hmat := toNat_add_one_le s.matchCount
  refine h.of_sameCommand ⟨rfl, rfl, rfl, rfl, rfl, rfl, rfl, rfl, rfl⟩ (copyBytes_wf n ?_ h.memory)
    (fun hp' => by simp [hp] at hp') (fun _ => ?_) h.buffers { h.finder with }
  · omega
  · refine { hdec with output := hroom, counted := ?_ }
    change s.litCount.toNat + (s.matchCount + 1).toNat ≤ s.dec.o + n
    omega

/-- A match token keeps the invariant, also where CHECK_MATCH ends the command (R100, R102). -/
theorem Inv.doMatch {s t : State} (h : Inv s) {coding : Coding} {n : Nat} {off : Offset} (hn : 1 ≤ n)
    (hstep : doMatch coding n off s = .next t) : Inv t := by
  rcases doMatch_cases coding n off s with ⟨r, -, hstop⟩ | ⟨hg, ⟨-, he⟩ | ⟨-, -, he⟩ | ⟨-, hroom, hok⟩⟩
  · cases hstop.symm.trans hstep
  · cases he.symm.trans hstep
    exact h.errorEntry _
  · cases he.symm.trans hstep
    exact h.errorEntry _
  · cases hok.symm.trans hstep
    exact h.putMatch ((tokenGuard_eq_none_iff _ _).1 hg).1 hn hroom

/-- A fetched token keeps the invariant (R99, R100). -/
theorem Inv.exec_fetched {s t u : State} {i : Instr} (h : Inv s) (hfetch : Machine.fetchToken s = .ok (i, t))
    (hstep : exec i t = .next u) : Inv u := by
  have ht : Inv t := h.fetchToken hfetch
  rcases fetchToken_instr hfetch with ⟨b, rfl⟩ | ⟨hwf, hc⟩
  · rcases execLit_cases b t with ⟨r, hstop⟩ | ⟨hg, hok⟩
    · cases hstop.symm.trans hstep
    · cases hok.symm.trans hstep
      exact ht.putLiteral hg b
  · obtain ⟨n, off, hn, hexec⟩ := exec_match hwf hc
    exact ht.doMatch hn ((hexec t).symm.trans hstep)

/-- The engine's step of a DECODE keeps the invariant (R96). -/
theorem Inv.decodeStep {s t : State} (h : Inv s) (hp : s.phase = .runDecode) (hstep : decodeStep s = .next t) : Inv t := by
  rcases decodeStep_cases s with ⟨-, hstop⟩ | ⟨-, ⟨-, hdone⟩ | ⟨-, -, ⟨e, -, he⟩ | ⟨u, hread, hok⟩⟩ |
    ⟨-, -, ⟨e, -, he⟩ | ⟨i, u, hfetch, hexec⟩⟩⟩
  · cases hstop.symm.trans hstep
  · cases hdone.symm.trans hstep
    obtain ⟨-, herr, -⟩ := h.status.running (by simp [hp])
    exact inv_complete h.memory h.params h.finder herr (h.buffersEmpty_of_decode hp) _
  · cases he.symm.trans hstep
    exact h.errorEntry e
  · cases hok.symm.trans hstep
    exact h.readFlagWord hread
  · cases he.symm.trans hstep
    exact h.errorEntry e
  · exact h.exec_fetched hfetch (hexec.symm.trans hstep)

/-- The engine's step keeps the invariant. -/
theorem Inv.engineStep {s t : State} (h : Inv s) (hstep : engineStep s = .next t) : Inv t := by
  cases hp : s.phase with
  | idle =>
    cases (engineStep_idle hp).symm.trans hstep
    exact h
  | runEncode => exact h.encodeStep hp ((engineStep_encode hp).symm.trans hstep)
  | runDecode => exact h.decodeStep hp ((engineStep_decode hp).symm.trans hstep)

/-! ### Commands -/

/-- STATUS shows BUSY while a command runs (R10, R108). -/
theorem StatusInv.idle_of_not_busy {s : State} (h : StatusInv s) (hb : s.busy = false) : s.phase = .idle := by
  by_contra hp
  rw [State.busy, (h.running hp).1] at hb
  cases hb

/-- START_CHECKS that pass establish the context of the command (R37, R38, R111). -/
theorem contextInv_of_startChecks {w : Word} {s : State} (h : s.startChecks w = none) : ContextInv s := by
  unfold State.startChecks at h
  iterate 7 (split at h; · cases h)
  rename_i hsrc hdst hshare hsize
  rw [Bool.not_eq_false] at hsrc hdst
  exact ⟨by omega, by omega, by rw [State.regionsLegal, hsrc, hdst]; rfl, Bool.eq_false_iff.2 hshare⟩

/-- DECODE_HEADER that passes establishes the decoded size and the order of the regions (R93). -/
theorem headerChecks_ok {s : State} {n : Nat} (h : headerChecks s = .ok n) :
    Config.hdrLen ≤ s.latSrcLen.toNat ∧ 1 ≤ n ∧ n ≤ Config.sizeMax ∧
      auxLegal s.layout (containerField s 8 4) (containerField s 12 4) s.latSrcLen.toNat = true ∧
      n ≤ s.latDstCap.toNat := by
  unfold headerChecks at h
  dsimp only at h
  iterate 5 (split at h; · cases h)
  cases h
  rename_i hlen _ hsize haux hcap
  exact ⟨by omega, by omega, by omega, Bool.eq_true_of_not_eq_false haux, by omega⟩

/-- A decoder started on a header that passes has its cursors in their ranges (R94, R95). -/
theorem decoderInv_startDecoder {s : State} {n a1 a2 : Nat} (hlen : Config.hdrLen ≤ s.latSrcLen.toNat)
    (hn : 1 ≤ n ∧ n ≤ Config.sizeMax) (haux : auxLegal s.layout a1 a2 s.latSrcLen.toNat = true)
    (hcap : n ≤ s.latDstCap.toNat) (hlit : s.litCount = 0) (hmat : s.matchCount = 0) :
    DecoderInv { s with dec := startDecoder s.layout n a1 a2 s.latSrcLen.toNat } := by
  have hcounted : s.litCount.toNat + s.matchCount.toNat ≤ 0 := by simp [hlit, hmat]
  have hbits : 0 ≤ s.fw ∧ (0 : Word).toNat < 2 ^ s.fw := ⟨Nat.zero_le _, Nat.two_pow_pos _⟩
  have hzero : (0 ≤ 0) ∧ 0 ≤ s.latSrcLen.toNat := ⟨Nat.le_refl 0, Nat.zero_le _⟩
  cases hl : s.layout with
  | tables =>
    simp only [hl, auxLegal, Bool.and_eq_true, decide_eq_true_eq] at haux
    obtain ⟨⟨h1, h2⟩, h3⟩ := haux
    exact ⟨hn, hcap, Nat.zero_le _, ⟨h1, h2.trans h3⟩, ⟨h2, h3⟩, ⟨h3, Nat.le_refl _⟩, hbits, hcounted⟩
  | groups =>
    simp only [hl, auxLegal, Bool.and_eq_true, decide_eq_true_eq] at haux
    exact ⟨hn, hcap, Nat.zero_le _, haux, hzero, ⟨haux.2, Nat.le_refl _⟩, hbits, hcounted⟩
  | stream =>
    exact ⟨hn, hcap, Nat.zero_le _, ⟨hlen, Nat.le_refl _⟩, hzero, hzero, hbits, hcounted⟩

/-- A fresh token encoder with empty buffers and counters (R59, R75). -/
theorem encoderInv_start {s : State} (henc : s.enc = ⟨0, 0, 0, 0⟩) (hbuf : BuffersEmpty s) (hlit : s.litCount = 0)
    (hmat : s.matchCount = 0) : EncoderInv s := by
  obtain ⟨hflags, hdict, hbytes⟩ := hbuf
  have hfw := s.fw_ge
  constructor <;> simp [henc, hflags, hdict, hbytes, hlit, hmat]
  omega

/-- The start of an ENCODE keeps the invariant (R59, R75, R112). -/
theorem Inv.startEncode {s : State} (h : Inv s) {w : Word} (hchecks : (s.beginCommand w).startChecks w = none) :
    Inv (s.beginCommand w).startEncode where
  memory := h.memory
  params := h.params
  status := ⟨nofun, fun _ => ⟨rfl, rfl, rfl⟩⟩
  context _ := { contextInv_of_startChecks hchecks with }
  encoder _ := encoderInv_start rfl ⟨rfl, rfl, rfl⟩ rfl rfl
  decoder := nofun
  buffers hp := absurd rfl hp
  finder := { h.finder with }

/-- The start of a DECODE keeps the invariant, whether or not DECODE_HEADER ends it (R93, R95, R113). -/
theorem Inv.startDecode {s : State} (h : Inv s) (hbuf : BuffersEmpty s) {w : Word}
    (hchecks : (s.beginCommand w).startChecks w = none) : Inv (s.beginCommand w).startDecode := by
  unfold State.startDecode
  dsimp only
  split
  · rename_i e _
    refine h.errorEntry_of_same ?_ ?_ ?_ ?_ e <;> rfl
  · rename_i n hok
    obtain ⟨hlen, hone, hmax, haux, hcap⟩ := headerChecks_ok hok
    exact {
      memory := h.memory
      params := h.params
      status := ⟨nofun, fun _ => ⟨rfl, rfl, rfl⟩⟩
      context := fun _ => { contextInv_of_startChecks hchecks with }
      encoder := nofun
      decoder := fun _ => decoderInv_startDecoder hlen ⟨hone, hmax⟩ haux hcap rfl rfl
      buffers := fun _ => hbuf
      finder := { h.finder with } }

/-- A write of a word to CMD keeps the invariant, whether it is ignored, clears, is refused or starts (R108, R109, R110). -/
theorem Inv.writeCmd {s : State} (h : Inv s) (w : Word) : Inv (s.writeCmd w) := by
  have hbuf (hb : s.busy = false) : BuffersEmpty s := h.buffers (by simp [h.status.idle_of_not_busy hb])
  rcases writeCmd_cases w s with ⟨-, hw⟩ | ⟨hb, -, -, hw⟩ | ⟨hb, -, ⟨e, -, hw⟩ | ⟨hchecks, -, hw⟩ | ⟨hchecks, -, hw⟩⟩
  · rwa [hw]
  · rw [hw]
    exact inv_of_idle (h.status.idle_of_not_busy hb) h.memory h.params (.inl ⟨rfl, rfl, rfl⟩) (hbuf hb) { h.finder with }
  · rw [hw]
    refine h.errorEntry_of_same ?_ ?_ ?_ ?_ e <;> rfl
  · rw [hw]
    exact h.startEncode hchecks
  · rw [hw]
    exact h.startDecode (hbuf hb) hchecks

/-- A command's meaning is a write of a word to CMD (R108). -/
theorem exec_command {i : Instr} (h : tokenOf i = none) : ∃ w, ∀ s, exec i s = .next (s.writeCmd w) := by
  cases i with
  | lit | matchMio | matchYayS | matchYayL | matchRvlS | matchRvlM | matchRvlL => cases h
  | _ => exact ⟨_, fun _ => rfl⟩

/-- A word written to CMD does what some write of a word to CMD does (R9, R47). -/
theorem commandWrite_eq (w : Word) : ∃ w', ∀ s, commandWrite w s = .next (s.writeCmd w') := by
  unfold commandWrite
  cases hdecode : decodeCommand w with
  | ok i => exact exec_command (tokenOf_of_decodeCommand hdecode)
  | error e => exact ⟨w, fun _ => rfl⟩

/-! ### The host's operations -/

/-- The invariant does not speak of the host side. -/
theorem Inv.mapHostSide {s : State} (h : Inv s) (f : HostSide → HostSide) : Inv (s.mapHostSide f) :=
  h.of_sameCommand ⟨rfl, rfl, rfl, rfl, rfl, rfl, rfl, rfl, rfl⟩ h.memory (fun hp => { h.encoder hp with })
    (fun hp => { h.decoder hp with }) h.buffers { h.finder with }

/-- A register read changes the host side alone (R8, R34, R142). -/
theorem State.readRegister_eq (s : State) (off : BitVec 8) (width : AccessWidth) :
    ∃ f, s.readRegister off width = s.mapHostSide f := by
  unfold State.readRegister
  split
  · exact ⟨fun x => { x with readData := Config.freeWord s.fresh, fresh := s.fresh + 1 }, rfl⟩
  · split
    · exact ⟨fun x => { x with
        readData := s.drawLitCount.readData, litSeen := s.drawLitCount.litSeen, fresh := s.fresh + 1 }, rfl⟩
    · split
      · exact ⟨fun x => { x with
          readData := s.drawMatchCount.readData, matchSeen := s.drawMatchCount.matchSeen, fresh := s.fresh + 1 }, rfl⟩
      · exact ⟨fun x => { x with readData := s.register off }, rfl⟩

/-- A register write other than CMD's keeps the invariant (R11, R12, R141). -/
theorem Inv.setRegister {s : State} (h : Inv s) (off : BitVec 8) (v : Word) : Inv (s.setRegister off v) := by
  rw [State.setRegister_eq]
  exact h.mapHostSide fun x => { x with
    srcAddr := if off = 0x08 then v else s.srcAddr
    srcLen := if off = 0x0C then v else s.srcLen
    dstAddr := if off = 0x10 then v else s.dstAddr
    dstCap := if off = 0x14 then v else s.dstCap }

/-- The host's register write keeps the invariant. -/
theorem Inv.hostWrite {s t : State} (h : Inv s) {addr : Word} {width : AccessWidth} {v : Word}
    (hstep : hostWrite addr width v s = .next t) : Inv t := by
  unfold Machine.hostWrite at hstep
  split at hstep
  · cases hstep
  · split at hstep
    · cases hstep
      exact h
    · split at hstep
      · obtain ⟨w, hw⟩ := commandWrite_eq v
        cases (hw s).symm.trans hstep
        exact h.writeCmd w
      · cases hstep
        exact h.setRegister _ v

/-- The host's register read keeps the invariant. -/
theorem Inv.hostRead {s t : State} (h : Inv s) {addr : Word} {width : AccessWidth}
    (hstep : hostRead addr width s = .next t) : Inv t := by
  unfold Machine.hostRead at hstep
  split at hstep
  · cases hstep
  · rename_i off _
    cases hstep
    obtain ⟨f, hf⟩ := s.readRegister_eq off width
    exact hf ▸ h.mapHostSide f

/-- A change of memory that keeps its canonical form keeps the invariant. -/
theorem Inv.withMem {s : State} (h : Inv s) {m : List Host.Cell} (hm : Memory.wf m = true) : Inv { s with mem := m } :=
  h.of_sameCommand ⟨rfl, rfl, rfl, rfl, rfl, rfl, rfl, rfl, rfl⟩ hm (fun hp => { h.encoder hp with })
    (fun hp => { h.decoder hp with }) h.buffers { h.finder with }

/-- The host's write of a byte of memory keeps the invariant (R139). -/
theorem Inv.hostMemWrite {s t : State} (h : Inv s) {addr : Word} {v : Byte} (hstep : hostMemWrite addr v s = .next t) :
    Inv t := by
  unfold Machine.hostMemWrite at hstep
  split at hstep
  · cases hstep
  · cases hstep
    exact h.withMem (Memory.write_wf addr.isLt h.memory)

/-- The host's read of a byte of memory keeps the invariant (R139). -/
theorem Inv.hostMemRead {s t : State} (h : Inv s) {addr : Word} (hstep : hostMemRead addr s = .next t) : Inv t := by
  unfold Machine.hostMemRead at hstep
  split at hstep
  · cases hstep
  · cases hstep
    exact h.mapHostSide fun x => { x with readData := _ }

/-- The match finder's state after reset (R23, R135). -/
theorem finderInv_reset : FinderInv State.reset := by
  refine ⟨rfl, List.length_replicate, fun k hk => ?_⟩
  rw [List.eq_of_mem_replicate hk]
  decide

/-- A reset leaves memory canonical (R136). -/
theorem State.resetMemory_wf {s : State} (h : Memory.wf s.mem = true) : Memory.wf s.resetMemory.mem = true := by
  unfold State.resetMemory
  split
  · refine Memory.writeFree_wf _ ?_ h
    have hbase : s.latDstAddr.toNat < Config.addressSpace := s.latDstAddr.isLt
    unfold State.outputBytes
    omega
  · exact h

/-- The platform's reset keeps the invariant (R135, R136). -/
theorem Inv.applyReset {s : State} (h : Inv s) : Inv s.applyReset := by
  have hparams : s.resetMemory.params = s.params := by
    unfold State.resetMemory
    split <;> rfl
  refine inv_of_idle rfl (State.resetMemory_wf h.memory) ?_ (.inl ⟨rfl, rfl, rfl⟩) ⟨rfl, rfl, rfl⟩ { finderInv_reset with }
  exact hparams ▸ h.params

/-- One operation of the host keeps the invariant. -/
theorem Inv.hostMove {s t : State} (h : Inv s) {op : HostOp} (hstep : hostMove op s = .next t) : Inv t := by
  cases op with
  | write addr width v => exact h.hostWrite hstep
  | read addr width => exact h.hostRead hstep
  | memWrite addr v => exact h.hostMemWrite hstep
  | memRead addr => exact h.hostMemRead hstep
  | poll =>
    cases hstep
    exact h.mapHostSide fun x => { x with readData := s.status }
  | pass => exact h.engineStep hstep
  | reset =>
    cases hstep
    exact h.applyReset

/-- Settles O54: the next operation of the host, or the engine's step where it has none or waits for BUSY = 0. -/
theorem everyStepKeepsTheInvariant : Obligations.EveryStepKeepsTheInvariant := by
  intro s t h hstep
  cases hhost : s.host with
  | nil => exact h.engineStep ((step_of_quiet hhost).symm.trans hstep)
  | cons op rest =>
    have htaken : Inv { s with host := rest } := h.mapHostSide fun x => { x with host := rest }
    by_cases hwait : op = .poll ∧ s.busy = true
    · obtain ⟨rfl, hb⟩ := hwait
      have hpolled : Inv (s.deliver s.status) := h.mapHostSide fun x => { x with readData := s.status }
      exact hpolled.engineStep ((step_of_waiting_poll hhost hb).symm.trans hstep)
    · have hgo : op = .poll → s.busy = false := fun hop => Bool.eq_false_iff.2 fun hb => hwait ⟨hop, hb⟩
      exact htaken.hostMove ((step_of_host hhost hgo).symm.trans hstep)

end Sys2Proof.Machine

/-! Memory as the engine sees it (R28, R44, R119). An ENCODE writes once, its container, which fits the output region; a
DECODE writes a token at a time, below its decoded size. Nothing else of the engine touches memory, and no operation of it
moves the latches. And the register accesses that are not aligned 32-bit ones (R34). -/

namespace Sys2Proof.Machine

/-! ### Narrow and misaligned accesses -/

/-- Which accesses are not aligned 32-bit ones. -/
theorem alignedWord_eq_false {width : AccessWidth} {off : BitVec 8} (h : width ≠ .word ∨ off.toNat % 4 ≠ 0) :
    alignedWord width off = false := by
  rw [Bool.eq_false_iff, Ne, alignedWord_iff]
  tauto

/-- Settles O43: the access reaches the window at its offset, where it is not an aligned 32-bit one. -/
theorem narrowAccesses : Obligations.NarrowAccesses := by
  intro s off width v rest hnarrow
  have hna := alignedWord_eq_false hnarrow
  refine ⟨fun hhost => ?_, fun hhost => ?_⟩
  · rw [step_of_host hhost nofun]
    simp [hostMove, hostWrite, hna]
  · rw [step_of_host hhost nofun]
    simp [hostMove, hostRead, State.readRegister, hna, State.deliverFree]

/-! ### Writes of the output region alone -/

/-- From `s` to `t` the latches stay and no byte outside the latched output region changes (R28, R44). -/
structure WritesOnlyOutput (s t : State) : Prop where
  latSrcAddr : t.latSrcAddr = s.latSrcAddr
  latDstAddr : t.latDstAddr = s.latDstAddr
  latDstCap : t.latDstCap = s.latDstCap
  outside : ∀ x, (x < s.latDstAddr.toNat ∨ s.latDstAddr.toNat + s.latDstCap.toNat ≤ x) →
    Memory.read t.mem x = Memory.read s.mem x

/-- No change writes nothing. -/
theorem WritesOnlyOutput.refl (s : State) : WritesOnlyOutput s s := ⟨rfl, rfl, rfl, fun _ _ => rfl⟩

/-- Two such changes are one. -/
theorem WritesOnlyOutput.trans {s t u : State} (h : WritesOnlyOutput s t) (h' : WritesOnlyOutput t u) :
    WritesOnlyOutput s u := by
  obtain ⟨hsrc, hdst, hcap, hout⟩ := h
  obtain ⟨hsrc', hdst', hcap', hout'⟩ := h'
  rw [hdst, hcap] at hout'
  exact ⟨hsrc'.trans hsrc, hdst'.trans hdst, hcap'.trans hcap, fun x hx => (hout' x hx).trans (hout x hx)⟩

/-- An error writes nothing (R122). -/
theorem WritesOnlyOutput.errorEntry (s : State) (e : ErrorCause) : WritesOnlyOutput s (s.errorEntry e) :=
  ⟨rfl, rfl, rfl, fun _ _ => rfl⟩

/-- The end of a command writes nothing (R62, R114). -/
theorem WritesOnlyOutput.complete (s : State) (n : Nat) : WritesOnlyOutput s (s.complete n) :=
  ⟨rfl, rfl, rfl, fun _ _ => rfl⟩

/-- A change of the decoder writes nothing. -/
theorem WritesOnlyOutput.withDec (s : State) (d : Decoder) : WritesOnlyOutput s { s with dec := d } :=
  ⟨rfl, rfl, rfl, fun _ _ => rfl⟩

/-- A change of the streams writes nothing. -/
theorem SameButStreams.writesOnlyOutput {s t : State} (h : SameButStreams s t) : WritesOnlyOutput s t := by
  obtain ⟨_, _, _, _, rfl⟩ := h
  exact ⟨rfl, rfl, rfl, fun _ _ => rfl⟩

/-- The input region holds what it held, where the regions share no byte (R28, R38). -/
theorem WritesOnlyOutput.srcByte_eq {s t : State} (h : WritesOnlyOutput s t) (hctx : ContextInv s) {i : Nat}
    (hi : i < s.latSrcLen.toNat) : t.srcByte i = s.srcByte i := by
  have hapart := hctx.apart
  simp only [regionsShare, Bool.and_eq_false_iff, decide_eq_false_iff_not] at hapart
  rw [State.srcByte, h.latSrcAddr]
  exact h.outside _ (by omega)

/-! ### The engine's step of an ENCODE -/

/-- The FINDs of a round write nothing to memory (R65). -/
theorem WritesOnlyOutput.noteFinds (s : State) : WritesOnlyOutput s s.noteFinds := by
  rw [State.noteFinds_eq]
  exact ⟨rfl, rfl, rfl, fun _ _ => rfl⟩

/-- Emitted tokens write nothing to memory (R79, R80). -/
theorem WritesOnlyOutput.foldl_afterToken (s : State) (ts : List Token) : WritesOnlyOutput s (ts.foldl afterToken s) := by
  obtain ⟨_, _, _, _, _, _, heq⟩ := foldl_afterToken_eq ts s
  rw [heq]
  exact ⟨rfl, rfl, rfl, fun _ _ => rfl⟩

/-- A round writes nothing to memory, whether its tokens are emitted or one raises (R76, R123). -/
theorem EncoderInv.encodeRound_writesOnlyOutput {s : State} (h : EncoderInv s) :
    WritesOnlyOutput s (settle (encodeRound s)) := by
  refine (WritesOnlyOutput.noteFinds s).trans ?_
  obtain ⟨hdict, hbytes⟩ : s.noteFinds.dict.length ≤ s.noteFinds.params.dictCap.toNat ∧
      s.noteFinds.bytes.length ≤ s.noteFinds.params.bytesCap.toNat := by
    rw [State.noteFinds_eq]
    exact h.capacities.2
  unfold encodeRound
  cases hr : roundRaises s.noteFinds s.nextTokens with
  | none =>
    rw [emitTokens_fits hr]
    exact .foldl_afterToken _ _
  | some p =>
    obtain ⟨e, completed⟩ := p
    obtain ⟨u, hu, hsame⟩ := emitTokens_raises hdict hbytes hr
    rw [hu]
    exact ((WritesOnlyOutput.foldl_afterToken _ completed).trans hsame.writesOnlyOutput).trans (.errorEntry u e)

/-- A sequence that fits the output region is written inside it (R90). -/
theorem WritesOnlyOutput.writeOutput {s : State} {out : List Byte} (h : out.length ≤ s.latDstCap.toNat) :
    WritesOnlyOutput s (s.writeOutput out) :=
  ⟨rfl, rfl, rfl, fun _ hx => Memory.read_writeBytes_outside out (by omega)⟩

/-- The end of an ENCODE writes its container into the output region, or nothing (R86, R90). -/
theorem finishEncode_writesOnlyOutput (s : State) : WritesOnlyOutput s (settle (finishEncode s)) := by
  rcases finishEncode_cases s with ⟨e, t, hfin, hsame⟩ | ⟨t, hfin, hsame, hfits⟩
  · rw [hfin]
    exact hsame.writesOnlyOutput.trans (.errorEntry t e)
  · rw [hfin]
    have hwrite : WritesOnlyOutput t (t.writeOutput t.container) := .writeOutput (t.container_length_le.trans hfits)
    have hreleased : WritesOnlyOutput (t.writeOutput t.container) (t.writeOutput t.container).release :=
      SameButStreams.writesOnlyOutput ⟨_, _, _, _, rfl⟩
    exact ((hsame.writesOnlyOutput.trans hwrite).trans hreleased).trans (.complete _ _)

/-- The engine's step of an ENCODE writes the output region alone (R76, R112). -/
theorem EncoderInv.encodeStep_writesOnlyOutput {s t : State} (h : EncoderInv s) (hstep : encodeStep s = .next t) :
    WritesOnlyOutput s t := by
  rcases encodeStep_cases s with ⟨-, hstop⟩ | ⟨-, -, hround⟩ | ⟨-, -, hend⟩
  · cases hstop.symm.trans hstep
  · cases hround.symm.trans hstep
    exact h.encodeRound_writesOnlyOutput
  · cases hend.symm.trans hstep
    exact finishEncode_writesOnlyOutput s

/-! ### The engine's step of a DECODE -/

/-- The reading of a flag word changes the decoder alone (R97). -/
theorem readFlagWord_ok {s t : State} (h : readFlagWord s = .ok t) : ∃ d, t = { s with dec := d } := by
  unfold readFlagWord at h
  split at h
  · cases h
  · rename_i hread
    obtain ⟨c, x, rfl⟩ := readStream_ok hread
    cases h
    exact ⟨_, rfl⟩

/-- The reading of a token changes the decoder alone (R98 to R101). -/
theorem fetchToken_ok {s t : State} {i : Instr} (h : fetchToken s = .ok (i, t)) : ∃ d, t = { s with dec := d } := by
  have hkeeps {st w e v} {u u' : State} (hu : ∃ d, u = { s with dec := d })
      (hread : readStream st w e u = .ok (v, u')) : ∃ d, u' = { s with dec := d } := by
    obtain ⟨_, rfl⟩ := hu
    obtain ⟨c, x, rfl⟩ := readStream_ok hread
    exact ⟨_, rfl⟩
  have hconsumed : ∃ d, consumeFlag s = { s with dec := d } := ⟨_, rfl⟩
  unfold fetchToken at h
  split at h
  · unfold fetchLiteral at h
    split at h
    · cases h
    · rename_i hread
      cases h
      exact hkeeps hconsumed hread
  · exact fetchMatch_keeps hkeeps hconsumed h

/-- Every output index below N is one of the output region, where it fits (R93). -/
theorem State.outputFits_size {s : State} (h : s.outputFits = true) : s.dec.n ≤ s.latDstCap.toNat := by
  simp only [State.outputFits, Bool.and_eq_true, decide_eq_true_eq] at h
  exact h.2

/-- A literal is written into the output region (R99). -/
theorem execLit_writesOnlyOutput {b : Byte} {s t : State} (hstep : execLit b s = .next t) : WritesOnlyOutput s t := by
  rcases execLit_cases b s with ⟨r, hstop⟩ | ⟨hg, hok⟩
  · cases hstop.symm.trans hstep
  · cases hok.symm.trans hstep
    obtain ⟨-, hfits, hroom, -⟩ := (tokenGuard_eq_none_iff _ _).1 hg
    have hsize := State.outputFits_size hfits
    refine ⟨rfl, rfl, rfl, fun x hx => Memory.read_write_other ?_⟩
    rw [regionAddress]
    omega

/-- A match is copied into the output region, or ends the command (R102, R103). -/
theorem doMatch_writesOnlyOutput {coding : Coding} {n : Nat} {off : Offset} {s t : State}
    (hstep : doMatch coding n off s = .next t) : WritesOnlyOutput s t := by
  rcases doMatch_cases coding n off s with ⟨r, -, hstop⟩ | ⟨hg, ⟨-, he⟩ | ⟨-, -, he⟩ | ⟨-, hroom, hok⟩⟩
  · cases hstop.symm.trans hstep
  · cases he.symm.trans hstep
    exact .errorEntry s _
  · cases he.symm.trans hstep
    exact .errorEntry s _
  · cases hok.symm.trans hstep
    obtain ⟨-, hfits, -⟩ := (tokenGuard_eq_none_iff _ _).1 hg
    have hsize := State.outputFits_size hfits
    exact ⟨rfl, rfl, rfl, fun x hx => read_copyBytes_outside n (by omega)⟩

/-- A fetched token writes the output region alone (R99, R100). -/
theorem exec_fetched_writesOnlyOutput {s t u : State} {i : Instr} (hfetch : fetchToken s = .ok (i, t))
    (hstep : exec i t = .next u) : WritesOnlyOutput s u := by
  obtain ⟨d, rfl⟩ := fetchToken_ok hfetch
  refine (WritesOnlyOutput.withDec s d).trans ?_
  rcases fetchToken_instr hfetch with ⟨b, rfl⟩ | ⟨hwf, hc⟩
  · exact execLit_writesOnlyOutput hstep
  · obtain ⟨n, off, -, hexec⟩ := exec_match hwf hc
    exact doMatch_writesOnlyOutput ((hexec _).symm.trans hstep)

/-- The engine's step of a DECODE writes the output region alone (R96). -/
theorem decodeStep_writesOnlyOutput {s t : State} (hstep : decodeStep s = .next t) : WritesOnlyOutput s t := by
  rcases decodeStep_cases s with ⟨-, hstop⟩ | ⟨-, ⟨-, hdone⟩ | ⟨-, -, ⟨e, -, he⟩ | ⟨u, hread, hok⟩⟩ |
    ⟨-, -, ⟨e, -, he⟩ | ⟨i, u, hfetch, hexec⟩⟩⟩
  · cases hstop.symm.trans hstep
  · cases hdone.symm.trans hstep
    exact .complete s _
  · cases he.symm.trans hstep
    exact .errorEntry s e
  · cases hok.symm.trans hstep
    obtain ⟨d, rfl⟩ := readFlagWord_ok hread
    exact .withDec s d
  · cases he.symm.trans hstep
    exact .errorEntry s e
  · exact exec_fetched_writesOnlyOutput hfetch (hexec.symm.trans hstep)

/-! ### The engine's step -/

/-- The engine's step writes the output region alone (R28, R44). -/
theorem Inv.engineStep_writesOnlyOutput {s t : State} (h : Inv s) (hstep : Machine.engineStep s = .next t) :
    WritesOnlyOutput s t := by
  cases hp : s.phase with
  | idle =>
    cases (engineStep_idle hp).symm.trans hstep
    exact .refl s
  | runEncode => exact (h.encoder hp).encodeStep_writesOnlyOutput ((engineStep_encode hp).symm.trans hstep)
  | runDecode => exact decodeStep_writesOnlyOutput ((engineStep_decode hp).symm.trans hstep)

/-- Settles O55: the engine writes the output region alone, with which the input region of a running command shares no
byte. -/
theorem engineWritesOnlyTheOutputRegion : Obligations.EngineWritesOnlyTheOutputRegion := by
  intro s t h hstep
  have hwrites := h.engineStep_writesOnlyOutput hstep
  exact ⟨hwrites.outside, fun hp _ hi => hwrites.srcByte_eq (h.context hp) hi⟩

end Sys2Proof.Machine

/-! The encodings (R45 to R53). A command word and a descriptor are their fields put together, and a registry code names one
variant. So the two decoders are each the inverse of the encoder, and a descriptor's nibble fixes the form of its token and,
with the value after the descriptor, its length. -/

namespace Sys2Proof

/-! ### Fields -/

/-- A command word whose reserved bits are 0 is its OP and VARIANT fields put together (R46). -/
theorem commandWord_cmdOp_cmdVariant {w : Word} (h : cmdReserved w = 0) : commandWord (cmdOp w) (cmdVariant w) = w :=
  calc commandWord (cmdOp w) (cmdVariant w) = cmdReserved w ++ cmdVariant w ++ cmdOp w := by rw [h, commandWord]
    _ = w.extractLsb' 4 28 ++ cmdOp w :=
      congrArg (· ++ cmdOp w) (BitVec.extractLsb'_append_extractLsb'_eq_extractLsb' (start₂ := 8) (start₁ := 4) rfl)
    _ = w.extractLsb' 0 32 := BitVec.extractLsb'_append_extractLsb'_eq_extractLsb' (start₂ := 4) (start₁ := 0) rfl
    _ = w := BitVec.extractLsb'_eq_self

/-- A registry code that names a variant is that variant's (R45). -/
theorem codeOfVariant_of_variantOfCode : ∀ {code : Nibble} {v : Variant}, variantOfCode code = some v →
    codeOfVariant v = code := by
  decide

/-- A descriptor is its nibble and its offset field put together. -/
@[simp] theorem descriptor_descNibble_descOffset (d : Half) : descriptor (descNibble d) (descOffset d) = d :=
  (BitVec.extractLsb'_append_extractLsb'_eq_extractLsb' (start₂ := 12) (start₁ := 0) rfl).trans BitVec.extractLsb'_eq_self

/-- A descriptor's nibble as a number. -/
theorem toNat_descNibble (d : Half) : (descNibble d).toNat = d.toNat / 4096 := by
  have := d.isLt
  rw [descNibble, BitVec.extractLsb'_toNat, Nat.shiftRight_eq_div_pow]
  omega

/-- A descriptor's offset field as a number. -/
theorem toNat_descOffset (d : Half) : (descOffset d).toNat = d.toNat % 4096 := by
  simp [descOffset]

/-- Which descriptors have the nibble 0. -/
theorem descNibble_eq_zero_iff (d : Half) : descNibble d = 0 ↔ d.toNat / 4096 = 0 := by
  rw [← BitVec.toNat_inj, toNat_descNibble]
  rfl

/-- Which descriptors have the nibble 1. -/
theorem descNibble_eq_one_iff (d : Half) : descNibble d = 1 ↔ d.toNat / 4096 = 1 := by
  rw [← BitVec.toNat_inj, toNat_descNibble]
  rfl

/-! ### Command words -/

/-- The encoding of an ENCODE command (R46). -/
theorem encode_encodeOf (v : Variant) : encode (.encodeOf v) = .command (commandWord 1 (codeOfVariant v)) := by
  cases v <;> rfl

/-- The encoding of a DECODE command (R46). -/
theorem encode_decodeOf (v : Variant) : encode (.decodeOf v) = .command (commandWord 2 (codeOfVariant v)) := by
  cases v <;> rfl

/-- The word of CLEAR, whatever its VARIANT field (R46, R110). -/
theorem decodeCommand_clear (code : Nibble) : decodeCommand (commandWord 0 code) = .ok (.clear code) := by
  simp [decodeCommand]

/-- The word of an ENCODE command (R46). -/
theorem decodeCommand_encodeOf (v : Variant) :
    decodeCommand (commandWord 1 (codeOfVariant v)) = .ok (.encodeOf v) := by
  simp [decodeCommand]

/-- The word of a DECODE command (R46). -/
theorem decodeCommand_decodeOf (v : Variant) :
    decodeCommand (commandWord 2 (codeOfVariant v)) = .ok (.decodeOf v) := by
  simp [decodeCommand]

/-- Everything a command word can decode to (R46, R47). -/
theorem decodeCommand_cases {w : Word} {i : Instr} (h : decodeCommand w = .ok i) :
    (∃ code, w = commandWord 0 code ∧ i = .clear code) ∨
    (∃ v, w = commandWord 1 (codeOfVariant v) ∧ i = .encodeOf v) ∨
    (∃ v, w = commandWord 2 (codeOfVariant v) ∧ i = .decodeOf v) := by
  unfold decodeCommand at h
  split at h
  · rename_i hclear
    cases h
    exact .inl ⟨_, by rw [← hclear.1, commandWord_cmdOp_cmdVariant hclear.2], rfl⟩
  rename_i hclear
  split at h
  · cases h
  split at h
  · cases h
  rename_i hop hreserved
  have hw := commandWord_cmdOp_cmdVariant (not_not.1 hreserved)
  split at h
  · cases h
  rename_i v hv
  rw [← codeOfVariant_of_variantOfCode hv] at hw
  split at h
  · rename_i hencode
    cases h
    exact .inr (.inl ⟨v, by rw [← hw, hencode], rfl⟩)
  · have hdecode : cmdOp w = 2 := by
      have : cmdOp w ≠ 0 := fun h0 => hclear ⟨h0, not_not.1 hreserved⟩
      bv_omega
    cases h
    exact .inr (.inr ⟨v, by rw [← hw, hdecode], rfl⟩)

/-- What a command word decodes to has that word as its encoding, and is a command (R46, R47). -/
theorem encode_of_decodeCommand {w : Word} {i : Instr} (h : decodeCommand w = .ok i) :
    encode i = .command w ∧ i.wf = true ∧ i.coding? = none := by
  rcases decodeCommand_cases h with ⟨code, rfl, rfl⟩ | ⟨v, rfl, rfl⟩ | ⟨v, rfl, rfl⟩
  · exact ⟨rfl, rfl, rfl⟩
  · exact ⟨encode_encodeOf v, by cases v <;> rfl, by cases v <;> rfl⟩
  · exact ⟨encode_decodeOf v, by cases v <;> rfl, by cases v <;> rfl⟩

/-! ### Tokens -/

/-- The stream elements of a match token: its descriptor, then the escape byte or the extra halfword the nibble calls for,
with the value `extra` (R50, R51, R52). -/
def descriptorCode (coding : Coding) (d : Half) (extra : Nat) : TokenCode :=
  match extraOf coding (descNibble d) with
  | .none => matchCode [d] []
  | .escape => matchCode [d] [BitVec.ofNat 8 extra]
  | .half => matchCode [d, BitVec.ofNat 16 extra] []

/-- A match token read from a descriptor has that descriptor, with what its nibble calls for, as its encoding. -/
theorem encode_matchOf (coding : Coding) (d : Half) (extra : Nat) :
    encode (matchOf coding d extra) = .token (descriptorCode coding d extra) := by
  obtain ⟨nib, off, rfl⟩ : ∃ nib off, d = descriptor nib off := ⟨_, _, (descriptor_descNibble_descOffset d).symm⟩
  cases coding with
  | mio => simp [matchOf, encode, descriptorCode, extraOf]
  | yay =>
    by_cases h0 : nib = 0#4 <;> simp [matchOf, encode, descriptorCode, extraOf, h0]
  | rvl =>
    by_cases h0 : nib = 0#4
    · simp [matchOf, encode, descriptorCode, extraOf, h0]
    · by_cases h1 : nib = 1#4 <;> simp [matchOf, encode, descriptorCode, extraOf, h0, h1]

/-- A check that ends in an instruction has passed, and that instruction is the one it guards. -/
theorem eq_of_ite_eq_ok {p : Prop} [Decidable p] {i j : Instr} {r : DecodeReject}
    (h : (if p then .ok j else .error r) = Except.ok i) : p ∧ i = j := by
  split at h
  · rename_i hp
    cases h
    exact ⟨hp, rfl⟩
  · cases h

/-- Everything a token's stream elements can decode to (R49 to R52). -/
theorem decodeToken_cases {coding : Coding} {t : TokenCode} {i : Instr} (h : decodeToken coding t = .ok i) :
    (∃ b, t = literalCode b ∧ i = .lit b) ∨
    (∃ d extra, t = descriptorCode coding d extra ∧ i = matchOf coding d extra) := by
  obtain ⟨flag, dict, bytes⟩ := t
  unfold decodeToken at h
  split at h <;> dsimp only at *
  case h_1 b hflag hdict hbytes =>
    subst hflag hdict hbytes
    cases h
    exact .inl ⟨b, rfl, rfl⟩
  case h_2 d hflag hdict hbytes =>
    subst hflag hdict hbytes
    obtain ⟨hextra, hi⟩ := eq_of_ite_eq_ok h
    exact .inr ⟨d, 0, by rw [descriptorCode, hextra, matchCode], hi⟩
  case h_3 d e hflag hdict hbytes =>
    subst hflag hdict hbytes
    obtain ⟨hextra, hi⟩ := eq_of_ite_eq_ok h
    exact .inr ⟨d, e.toNat, by simp only [descriptorCode, hextra, matchCode, BitVec.ofNat_toNat, BitVec.setWidth_eq], hi⟩
  case h_4 d x hflag hdict hbytes =>
    subst hflag hdict hbytes
    obtain ⟨hextra, hi⟩ := eq_of_ite_eq_ok h
    exact .inr ⟨d, x.toNat, by simp only [descriptorCode, hextra, matchCode, BitVec.ofNat_toNat, BitVec.setWidth_eq], hi⟩
  case h_5 => cases h

/-- What stream elements decode to has them as its encoding, and is well formed and of the coding (R49 to R53). -/
theorem encode_of_decodeToken {coding : Coding} {t : TokenCode} {i : Instr} (h : decodeToken coding t = .ok i) :
    encode i = .token t ∧ i.wf = true ∧ (i.coding? = none ∨ i.coding? = some coding) := by
  rcases decodeToken_cases h with ⟨b, rfl, rfl⟩ | ⟨d, extra, rfl, rfl⟩
  · exact ⟨rfl, rfl, .inl rfl⟩
  · exact ⟨encode_matchOf coding d extra, matchOf_wf coding d extra, .inr (matchOf_coding? coding d extra)⟩

/-- Which short matches of the YAY coding are well formed (R51). -/
theorem matchYayS_wf_iff (nib : Nibble) (off : Offset) : (Instr.matchYayS nib off).wf = true ↔ nib ≠ 0 := by
  rw [Instr.wf, decide_eq_true_iff]
  bv_omega

/-- Which short matches of the RVL coding are well formed (R52). -/
theorem matchRvlS_wf_iff (nib : Nibble) (off : Offset) : (Instr.matchRvlS nib off).wf = true ↔ nib ≠ 0 ∧ nib ≠ 1 := by
  rw [Instr.wf, decide_eq_true_iff]
  bv_omega

/-- Decoding inverts encoding on the well-formed matches of a coding (R50, R51, R52). -/
theorem decode_encode_match {i : Instr} {coding : Coding} (hwf : i.wf = true) (hc : i.coding? = some coding) :
    decode coding (encode i) = .ok i := by
  cases i with
  | matchMio | matchYayL | matchRvlM | matchRvlL =>
    cases hc
    simp [encode, decode, matchCode, decodeToken, extraOf, matchOf]
  | matchYayS nib off =>
    cases hc
    have h0 : nib ≠ 0#4 := (matchYayS_wf_iff nib off).1 hwf
    simp [encode, decode, matchCode, decodeToken, extraOf, matchOf, h0]
  | matchRvlS nib off =>
    cases hc
    obtain ⟨h0, h1⟩ : nib ≠ 0#4 ∧ nib ≠ 1#4 := (matchRvlS_wf_iff nib off).1 hwf
    simp [encode, decode, matchCode, decodeToken, extraOf, matchOf, h0, h1]
  | _ => cases hc

/-- Decoding inverts encoding on the commands and the literals, under every coding (R46, R49). -/
theorem decode_encode_of_coding?_eq_none {i : Instr} (hc : i.coding? = none) (coding : Coding) :
    decode coding (encode i) = .ok i := by
  cases i with
  | clear code => exact decodeCommand_clear code
  | encodeMio0 => exact decodeCommand_encodeOf .mio0
  | encodeSmsr00 => exact decodeCommand_encodeOf .smsr00
  | encodeYay0 => exact decodeCommand_encodeOf .yay0
  | encodeYaz0 => exact decodeCommand_encodeOf .yaz0
  | encodeRvl0 => exact decodeCommand_encodeOf .rvl0
  | decodeMio0 => exact decodeCommand_decodeOf .mio0
  | decodeSmsr00 => exact decodeCommand_decodeOf .smsr00
  | decodeYay0 => exact decodeCommand_decodeOf .yay0
  | decodeYaz0 => exact decodeCommand_decodeOf .yaz0
  | decodeRvl0 => exact decodeCommand_decodeOf .rvl0
  | lit b => rfl
  | _ => cases hc

/-! ### Lengths and distances -/

/-- What a descriptor of the MIO coding means (R50, R53). -/
theorem tokenOf_matchOf_mio (d : Half) (x : Nat) :
    Machine.tokenOf (matchOf .mio d x) = some (.copy (d.toNat / 4096 + 3) (d.toNat % 4096 + 1)) := by
  rw [matchOf, Machine.tokenOf, toNat_descNibble, toNat_descOffset]

/-- What a descriptor of the YAY coding means, with its escape byte (R51, R53). -/
theorem tokenOf_matchOf_yay (d : Half) {x : Nat} (hx : x < 256) :
    Machine.tokenOf (matchOf .yay d x) =
      some (.copy (if d.toNat / 4096 = 0 then x + 18 else d.toNat / 4096 + 2) (d.toNat % 4096 + 1)) := by
  simp only [matchOf, descNibble_eq_zero_iff]
  split
  · rw [Machine.tokenOf, toNat_descOffset, BitVec.toNat_ofNat, Nat.mod_eq_of_lt hx]
  · rw [Machine.tokenOf, toNat_descNibble, toNat_descOffset]

/-- What a descriptor of the RVL coding means, with its escape byte or its extra halfword (R52, R53). -/
theorem tokenOf_matchOf_rvl (d : Half) {x : Nat} (hx : x < if d.toNat / 4096 = 0 then 256 else 65536) :
    Machine.tokenOf (matchOf .rvl d x) =
      some (.copy
        (if d.toNat / 4096 = 0 then x + 17 else if d.toNat / 4096 = 1 then x + 273 else d.toNat / 4096 + 1)
        (d.toNat % 4096 + 1)) := by
  simp only [matchOf, descNibble_eq_zero_iff, descNibble_eq_one_iff]
  split at hx
  · rename_i h0
    rw [if_pos h0, if_pos h0, Machine.tokenOf, toNat_descOffset, BitVec.toNat_ofNat, Nat.mod_eq_of_lt hx]
  · rename_i h0
    rw [if_neg h0, if_neg h0]
    split
    · rw [Machine.tokenOf, toNat_descOffset, BitVec.toNat_ofNat, Nat.mod_eq_of_lt hx]
    · rw [Machine.tokenOf, toNat_descNibble, toNat_descOffset]

/-- The match instruction of a coding belongs to it, whatever its length and distance (R80). -/
theorem matchInstr_coding? (coding : Coding) (n d : Nat) : (matchInstr coding n d).coding? = some coding := by
  cases coding with
  | mio => rfl
  | yay =>
    dsimp only [matchInstr]
    split <;> rfl
  | rvl =>
    dsimp only [matchInstr]
    split
    · rfl
    · split <;> rfl

/-- The match instruction of a length of at least 3 is well formed (R51, R52, R80). -/
theorem matchInstr_wf (coding : Coding) {n : Nat} (hn : 3 ≤ n) (d : Nat) : (matchInstr coding n d).wf = true := by
  cases coding with
  | mio => rfl
  | yay =>
    dsimp only [matchInstr]
    split
    · rw [Instr.wf, decide_eq_true_iff, BitVec.toNat_ofNat]
      omega
    · rfl
  | rvl =>
    dsimp only [matchInstr]
    split
    · rw [Instr.wf, decide_eq_true_iff, BitVec.toNat_ofNat]
      omega
    · split <;> rfl

/-- A match of field values `a` above the shortest length `k` of its form, and `d - 1`, means the length and the distance
they stand for. -/
theorem copy_ofNat {w a k n d : Nat} (ha : a < 2 ^ w) (hn : a + k = n) (hd : 1 ≤ d) (hwindow : d ≤ 4096) :
    Machine.Token.copy ((BitVec.ofNat w a).toNat + k) ((BitVec.ofNat 12 (d - 1)).toNat + 1) = .copy n d := by
  have hoff : d - 1 < 2 ^ 12 := by omega
  rw [BitVec.toNat_ofNat, BitVec.toNat_ofNat, Nat.mod_eq_of_lt ha, Nat.mod_eq_of_lt hoff, hn, Nat.sub_add_cancel hd]

/-- The match instruction of a length the coding encodes and of a distance in the window means exactly these (R50 to R52). -/
theorem tokenOf_matchInstr {coding : Coding} {n d : Nat} (hn : 3 ≤ n) (hmax : n ≤ Machine.codingMax coding) (hd : 1 ≤ d)
    (hwindow : d ≤ 4096) : Machine.tokenOf (matchInstr coding n d) = some (.copy n d) := by
  cases coding with
  | mio =>
    rw [Machine.codingMax] at hmax
    exact congrArg some (copy_ofNat (by omega) (by omega) hd hwindow)
  | yay =>
    rw [Machine.codingMax] at hmax
    dsimp only [matchInstr]
    split <;> exact congrArg some (copy_ofNat (by omega) (by omega) hd hwindow)
  | rvl =>
    rw [Machine.codingMax] at hmax
    dsimp only [matchInstr]
    split
    · exact congrArg some (copy_ofNat (by omega) (by omega) hd hwindow)
    · split <;> exact congrArg some (copy_ofNat (by omega) (by omega) hd hwindow)

/-! ### The obligations -/

/-- Settles O1: a command or a literal is read back under every coding, a well-formed match under its own. -/
theorem decodeInvertsEncode : Obligations.DecodeInvertsEncode := by
  intro i coding hwf hc
  rcases hc with hc | hc
  · exact decode_encode_of_coding?_eq_none hc coding
  · exact decode_encode_match hwf hc

/-- Settles O2: by what a command word, and what a token's stream elements, can decode to. -/
theorem encodeInvertsDecode : Obligations.EncodeInvertsDecode := by
  intro coding c i h
  cases c with
  | command w =>
    obtain ⟨henc, hwf, hc⟩ := encode_of_decodeCommand h
    exact ⟨henc, hwf, .inl hc⟩
  | token t => exact encode_of_decodeToken h

/-- Settles O4: the three codings' tables. -/
theorem nibbleTable : Obligations.NibbleTable :=
  ⟨tokenOf_matchOf_mio, fun d _ => tokenOf_matchOf_yay d, fun d _ => tokenOf_matchOf_rvl d⟩

/-- Settles O5: the match instruction built for a length and a distance has the form that encodes them. -/
theorem codingsRepresentEveryMatch : Obligations.CodingsRepresentEveryMatch := by
  intro coding n d hn hmax hd hwindow
  exact ⟨matchInstr_wf coding hn d, matchInstr_coding? coding n d, tokenOf_matchInstr hn hmax hd hwindow⟩

/-- Settles O3: each word is a concrete one. -/
theorem writtenOutWordsDecode : Obligations.WrittenOutWordsDecode := by
  unfold Obligations.WrittenOutWordsDecode
  decide

end Sys2Proof

/-! ## The stream buffers (spec/40_stream_buffers.md) -/

namespace Sys2Proof

open Machine

/-- Settles O30: each append is defined by R60's capacity check, and the subcauses are the rows of R121's table. -/
theorem appendsAreBounded : Obligations.AppendsAreBounded := by
  intro s f d b
  have hsubcauses : ErrorCause.flagsFull.sub = 1 ∧ ErrorCause.dictFull.sub = 2 ∧ ErrorCause.bytesFull.sub = 3 :=
    ⟨rfl, rfl, rfl⟩
  refine ⟨?flags, ?dict, ?bytes, hsubcauses⟩
  case flags => rw [appendFlags]
  case dict => rw [appendDict]
  case bytes => rw [appendBytes]

end Sys2Proof

/-! ## The match finder (spec/41_match_finder.md) -/

namespace Sys2Proof.Machine

/-! ### Equal bytes (R70) -/

/-- The `k` bytes from index `p` on equal those from index `c` on (R70). -/
def Agrees (src : Nat → Byte) (p c k : Nat) : Prop := ∀ j, j < k → src (p + j) = src (c + j)

/-- The first byte of an agreement stands apart from the others. -/
theorem agrees_succ {src : Nat → Byte} {p c k : Nat} :
    Agrees src p c (k + 1) ↔ src p = src c ∧ Agrees src (p + 1) (c + 1) k := by
  unfold Agrees
  rw [Nat.forall_lt_succ_left']
  simp only [Nat.add_zero, Nat.add_assoc, Nat.add_comm 1]

/-- An agreement in two parts. -/
theorem agrees_add {src : Nat → Byte} {p c m n : Nat} :
    Agrees src p c (m + n) ↔ Agrees src p c m ∧ Agrees src (p + m) (c + m) n := by
  induction m generalizing p c with
  | zero => simp [Agrees]
  | succ m ih =>
    rw [Nat.add_right_comm, agrees_succ, agrees_succ, ih, and_assoc]
    simp only [Nat.add_assoc, Nat.add_comm 1]

/-- An agreement holds over fewer bytes too. -/
theorem Agrees.mono {src : Nat → Byte} {p c m n : Nat} (h : Agrees src p c n) (hle : m ≤ n) : Agrees src p c m :=
  fun j hj => h j (hj.trans_le hle)

/-- A run of equal bytes is the longest agreement within its limit (R70). -/
theorem le_runLength_iff {src : Nat → Byte} {limit k p c : Nat} :
    k ≤ runLength src p c limit ↔ k ≤ limit ∧ Agrees src p c k := by
  induction limit generalizing k p c with
  | zero =>
    rw [runLength, Nat.le_zero]
    exact ⟨fun hk => ⟨hk, fun j hj => absurd hj (by omega)⟩, And.left⟩
  | succ limit ih =>
    cases k with
    | zero => simp [Agrees]
    | succ k =>
      rw [runLength, agrees_succ]
      split
      case isTrue heq => simp [heq, ih]
      case isFalse hne => simp [hne]

/-- A position starts with the seed where its 3 bytes equal those at the cursor (R68, R69). -/
theorem seedAt_iff {src : Nat → Byte} {p c : Nat} : seedAt src p c = true ↔ Agrees src p c Config.seedLen := by
  have hnil (q d : Nat) : Agrees src q d 0 := fun j hj => absurd hj (Nat.not_lt_zero j)
  simp [seedAt, Config.seedLen, agrees_succ, hnil, and_assoc]

/-- A position is no candidate exactly where it does not start with the seed (R69). -/
theorem candidateLength_eq_zero_iff {src : Nat → Byte} {p c cap : Nat} :
    candidateLength src p c cap = 0 ↔ ¬Agrees src p c Config.seedLen := by
  rw [candidateLength, ← seedAt_iff]
  split
  case isTrue h => simp [h, Config.seedLen]
  case isFalse h => simp [h]

/-- A candidate's length is the largest agreement of at least 3 bytes within the cap (R70). -/
theorem le_candidateLength_iff {src : Nat → Byte} {p c cap k : Nat} (hcap : Config.seedLen ≤ cap)
    (hk : Config.seedLen ≤ k) : k ≤ candidateLength src p c cap ↔ k ≤ cap ∧ Agrees src p c k := by
  obtain ⟨n, rfl⟩ := Nat.exists_eq_add_of_le hk
  obtain ⟨limit, rfl⟩ := Nat.exists_eq_add_of_le hcap
  rw [candidateLength, agrees_add, ← seedAt_iff, Nat.add_sub_cancel_left, Nat.add_le_add_iff_left]
  split
  case isTrue h =>
    rw [Nat.add_le_add_iff_left, le_runLength_iff]
    simp [h, Config.seedLen]
  case isFalse h => simp [h, Config.seedLen]

/-- A candidate is at least 3 bytes long (R70). -/
theorem seedLen_le_candidateLength {src : Nat → Byte} {p c cap : Nat} (h : 0 < candidateLength src p c cap) :
    Config.seedLen ≤ candidateLength src p c cap := by
  unfold candidateLength at h ⊢
  split
  case isTrue => exact Nat.le_add_right _ _
  case isFalse hseed => simp [hseed] at h

/-! ### The best candidate (R65, R71) -/

/-- What one position of FIND's loop can do: it keeps the best candidate, or the position takes its place. -/
theorem improve_cases (tie : MfTie) (best : Candidate) (p len : Nat) :
    (improve tie best p len = best ∧ (len = 0 ∨ len < best.len ∨ len = best.len ∧ tie = .farthest)) ∨
    (improve tie best p len = ⟨p, len⟩ ∧ 0 < len ∧ (best.len < len ∨ len = best.len ∧ tie = .nearest)) := by
  unfold improve
  split
  case isTrue hzero => exact .inl ⟨rfl, .inl hzero⟩
  case isFalse hpos =>
    split
    case isTrue hlonger => exact .inr ⟨rfl, Nat.pos_of_ne_zero hpos, .inl hlonger⟩
    case isFalse hnotLonger =>
      split
      case isTrue htied => exact .inr ⟨rfl, Nat.pos_of_ne_zero hpos, .inr htied⟩
      case isFalse hnotTied =>
        refine .inl ⟨rfl, .inr ?_⟩
        rcases (Nat.le_of_not_lt hnotLonger).lt_or_eq with hshorter | heq
        · exact .inl hshorter
        · cases tie with
          | farthest => exact .inr ⟨heq, rfl⟩
          | nearest => exact absurd ⟨heq, rfl⟩ hnotTied

/-- `best` is the best candidate of the positions from `lo` up to `hi`, where the candidate at `p` has the length
`len p`: none is longer, and MF_TIE names it among those of its length (R71). -/
structure Candidate.IsBest (len : Nat → Nat) (tie : MfTie) (lo hi : Nat) (best : Candidate) : Prop where
  longest : ∀ p, lo ≤ p → p < hi → len p ≤ best.len
  mem : 0 < best.len → lo ≤ best.pos ∧ best.pos < hi
  attained : 0 < best.len → len best.pos = best.len
  farthest : 0 < best.len → tie = .farthest → ∀ p, lo ≤ p → p < best.pos → len p < best.len
  nearest : 0 < best.len → tie = .nearest → ∀ p, best.pos < p → p < hi → len p < best.len

/-- No candidate is the best of no positions. -/
theorem Candidate.isBest_none (len : Nat → Nat) (tie : MfTie) (lo : Nat) : IsBest len tie lo lo ⟨0, 0⟩ where
  longest _ hlo hhi := absurd hlo (Nat.not_le.2 hhi)
  mem h := absurd h (Nat.lt_irrefl 0)
  attained h := absurd h (Nat.lt_irrefl 0)
  farthest h := absurd h (Nat.lt_irrefl 0)
  nearest h := absurd h (Nat.lt_irrefl 0)

/-- One position of FIND's loop keeps the best candidate of the positions before it up to date. -/
theorem Candidate.IsBest.improve {len : Nat → Nat} {tie : MfTie} {lo p : Nat} {best : Candidate}
    (h : IsBest len tie lo p best) (hlo : lo ≤ p) : IsBest len tie lo (p + 1) (improve tie best p (len p)) := by
  obtain ⟨hlongest, hmem, hattained, hfarthest, hnearest⟩ := h
  rcases improve_cases tie best p (len p) with ⟨hbest, hkept⟩ | ⟨hbest, hcandidate, htaken⟩
  case inl =>
    -- `p` is no longer than `best`, and as long only where MF_TIE prefers the earlier.
    rw [hbest]
    constructor <;> grind
  case inr =>
    -- Every earlier position is at most as long as `p`, and as long only where MF_TIE prefers the later.
    rw [hbest]
    constructor <;> grind

/-- FIND's loop carries the best candidate of the positions before it to that of all its positions. -/
theorem Candidate.IsBest.searchFrom {src : Nat → Byte} {c cap lo : Nat} {tie : MfTie} :
    ∀ (todo : Nat) {p : Nat} {best : Candidate}, IsBest (candidateLength src · c cap) tie lo p best → lo ≤ p →
      IsBest (candidateLength src · c cap) tie lo (p + todo) (searchFrom src c cap tie todo p best)
  | 0, _, _, h, _ => h
  | todo + 1, p, _, h, hlo => by
    rw [← Nat.succ_add_eq_add_succ]
    exact (h.improve hlo).searchFrom todo (hlo.trans (Nat.le_succ p))

/-! ### FIND (R65) -/

/-- FIND returns (0, 0) where no seed can be formed (R68). -/
theorem find_of_noSeed {len c : Nat} (h : len - c < Config.seedLen) (src : Nat → Byte) (maxLen : Nat) (tie : MfTie) :
    find src len maxLen tie c = ⟨0, 0⟩ :=
  if_pos h

/-- The positions of the window end at the cursor (R67). -/
theorem windowStart_add (c : Nat) : windowStart c + (c - windowStart c) = c :=
  Nat.add_sub_cancel' (Nat.sub_le c Config.window)

/-- The cap leaves room for a seed where one can be formed, and no match of its length passes the source's end (R66). -/
theorem findCap_bounds {len maxLen c : Nat} (h : ¬len - c < Config.seedLen) (hmax : 2 ≤ maxLen) :
    Config.seedLen ≤ findCap len maxLen c ∧ c + findCap len maxLen c ≤ len := by
  unfold findCap Config.seedLen at *
  omega

/-- Where a seed can be formed, FIND returns the pair of the best candidate of the window (R65, R67). -/
theorem find_eq_foundOf_isBest {len c : Nat} (h : ¬len - c < Config.seedLen) (src : Nat → Byte) (maxLen : Nat)
    (tie : MfTie) : ∃ best : Candidate, find src len maxLen tie c = foundOf c best ∧
      best.IsBest (candidateLength src · c (findCap len maxLen c)) tie (windowStart c) c := by
  refine ⟨_, if_neg h, ?_⟩
  have hsearch := (Candidate.isBest_none (candidateLength src · c (findCap len maxLen c)) tie (windowStart c)).searchFrom
    (c - windowStart c) le_rfl
  rwa [windowStart_add] at hsearch

/-- FIND returns a best candidate, where there is one, as its distance and length (R65). -/
theorem foundOf_of_pos {c : Nat} {best : Candidate} (h : 0 < best.len) : foundOf c best = ⟨c - best.pos, best.len⟩ :=
  if_neg h.ne'

section
variable {src : Nat → Byte} {c cap lo hi : Nat} {tie : MfTie} {best : Candidate}

/-- The best candidate is at least 3 bytes long (R70). -/
theorem Candidate.IsBest.seedLen_le (h : best.IsBest (candidateLength src · c cap) tie lo hi) (hsome : 0 < best.len) :
    Config.seedLen ≤ best.len := by
  have hlen := h.attained hsome
  rw [← hlen] at hsome ⊢
  exact seedLen_le_candidateLength hsome

/-- The best candidate is a match within the cap (R66, R70). -/
theorem Candidate.IsBest.agrees (h : best.IsBest (candidateLength src · c cap) tie lo hi) (hcap : Config.seedLen ≤ cap)
    (hsome : 0 < best.len) : best.len ≤ cap ∧ Agrees src best.pos c best.len :=
  (le_candidateLength_iff hcap (h.seedLen_le hsome)).1 (h.attained hsome).ge

/-- No match of the positions searched is longer than the best candidate (R65). -/
theorem Candidate.IsBest.le_of_agrees (h : best.IsBest (candidateLength src · c cap) tie lo hi)
    (hcap : Config.seedLen ≤ cap) (hsome : 0 < best.len) {p k : Nat} (hlo : lo ≤ p) (hhi : p < hi) (hk : k ≤ cap)
    (hagrees : Agrees src p c k) : k ≤ best.len := by
  rcases Nat.lt_or_ge k Config.seedLen with hshort | hlong
  · exact hshort.le.trans (h.seedLen_le hsome)
  · exact ((le_candidateLength_iff hcap hlong).2 ⟨hk, hagrees⟩).trans (h.longest p hlo hhi)

/-- A position whose candidate is shorter than the best has no match of the best's length. -/
theorem Candidate.IsBest.not_agrees (h : best.IsBest (candidateLength src · c cap) tie lo hi)
    (hcap : Config.seedLen ≤ cap) (hsome : 0 < best.len) {p : Nat} (hp : candidateLength src p c cap < best.len) :
    ¬Agrees src p c best.len := fun hagrees =>
  hp.not_ge ((le_candidateLength_iff hcap (h.seedLen_le hsome)).2 ⟨(h.agrees hcap hsome).1, hagrees⟩)

end

/-- Settles O26: FIND's result is the best candidate of the window, with lengths read as agreements (R70). -/
theorem findReturnsTheLongest : Obligations.FindReturnsTheLongest := by
  intro src len maxLen c tie hmax _
  by_cases hseed : len - c < Config.seedLen
  · exact .inl ⟨find_of_noSeed hseed src maxLen tie, fun h => absurd hseed (Nat.not_lt.2 h)⟩
  have hcap := (findCap_bounds hseed (by omega : 2 ≤ maxLen)).1
  obtain ⟨best, hfind, hbest⟩ := find_eq_foundOf_isBest hseed src maxLen tie
  rw [hfind]
  rcases Nat.eq_zero_or_pos best.len with hnone | hsome
  · refine .inl ⟨if_pos hnone, fun _ p hlo hhi => (candidateLength_eq_zero_iff (cap := findCap len maxLen c)).1 ?_⟩
    exact Nat.le_zero.1 (hnone ▸ hbest.longest p hlo hhi)
  · obtain ⟨hlo, hhi⟩ := hbest.mem hsome
    obtain ⟨hle, hagrees⟩ := hbest.agrees hcap hsome
    rw [foundOf_of_pos hsome]
    dsimp only
    rw [Nat.sub_sub_self hhi.le]
    have hwindow : c - best.pos ≤ Config.window := by
      unfold windowStart at hlo
      omega
    exact .inr ⟨Nat.sub_pos_of_lt hhi, Nat.sub_le _ _, hwindow, hbest.seedLen_le hsome, hle, hagrees,
      fun p k hlo hhi hk hagrees => hbest.le_of_agrees hcap hsome hlo hhi hk hagrees,
      fun htie p hlo hp => hbest.not_agrees hcap hsome (hbest.farthest hsome htie p hlo hp),
      fun htie p hp hhi => hbest.not_agrees hcap hsome (hbest.nearest hsome htie p hp hhi)⟩

/-! ### The bytes FIND depends on (R72) -/

section
variable {src src' : Nat → Byte} {len : Nat}

/-- Runs inside the source depend on the source alone. -/
theorem runLength_congr (hsrc : ∀ i, i < len → src i = src' i) : ∀ {limit p c : Nat}, p + limit ≤ len → c + limit ≤ len →
    runLength src' p c limit = runLength src p c limit
  | 0, _, _, _, _ => rfl
  | limit + 1, p, c, hp, hc => by
    rw [runLength, runLength, hsrc p (by omega), hsrc c (by omega),
      runLength_congr hsrc (limit := limit) (by omega) (by omega)]

/-- The length of a candidate inside the source depends on the source alone. -/
theorem candidateLength_congr (hsrc : ∀ i, i < len → src i = src' i) {cap p c : Nat} (hcap : Config.seedLen ≤ cap)
    (hp : p < c) (hc : c + cap ≤ len) : candidateLength src' p c cap = candidateLength src p c cap := by
  unfold candidateLength seedAt
  unfold Config.seedLen at *
  rw [runLength_congr hsrc (by omega) (by omega), hsrc p (by omega), hsrc (p + 1) (by omega), hsrc (p + 2) (by omega),
    hsrc c (by omega), hsrc (c + 1) (by omega), hsrc (c + 2) (by omega)]

/-- A search before the cursor depends on the source alone. -/
theorem searchFrom_congr (hsrc : ∀ i, i < len → src i = src' i) {cap c : Nat} (hcap : Config.seedLen ≤ cap)
    (hc : c + cap ≤ len) (tie : MfTie) : ∀ {todo p : Nat} (best : Candidate), p + todo ≤ c →
      searchFrom src' c cap tie todo p best = searchFrom src c cap tie todo p best
  | 0, _, _, _ => rfl
  | todo + 1, p, best, hp => by
    rw [searchFrom, searchFrom, candidateLength_congr hsrc hcap (by omega) hc,
      searchFrom_congr hsrc hcap hc tie _ (by omega)]

/-- FIND depends on no byte outside the source (R72). -/
theorem find_congr (hsrc : ∀ i, i < len → src i = src' i) {maxLen : Nat} (hmax : 2 ≤ maxLen) (tie : MfTie) (c : Nat) :
    find src' len maxLen tie c = find src len maxLen tie c := by
  unfold find
  split
  case isTrue => rfl
  case isFalse hseed =>
    obtain ⟨hcap, hend⟩ := findCap_bounds hseed hmax
    rw [searchFrom_congr hsrc hcap hend tie _ (windowStart_add c).le]

end

/-- Settles O27: FIND's search reads inside the source, and what it finds is a match there (O26). -/
theorem findStaysInsideTheSource : Obligations.FindStaysInsideTheSource := by
  intro src src' len maxLen c tie hmax hc hsrc
  refine ⟨find_congr hsrc (by omega) tie c, ?_⟩
  rcases findReturnsTheLongest src len maxLen c tie hmax hc with
    ⟨hnone, _⟩ | ⟨hpos, hc, hwindow, hthree, hcap, hagrees, _⟩
  · exact .inl hnone
  · exact .inr ⟨hpos, le_min hc hwindow, hthree, hcap, hagrees⟩

/-! ### SKIP (R73) -/

/-- The entry of a byte after another byte's entry is written. -/
theorem skipFor_set {skip : List Nat} (h : skip.length = 256) (b x : Byte) (k : Nat) :
    skipFor (skip.set b.toNat k) x = if x = b then k else skipFor skip x := by
  have hx : x.toNat < skip.length := h ▸ x.isLt
  simp only [skipFor, List.getD_eq_getElem?_getD, List.getElem?_set, BitVec.toNat_inj, eq_comm (a := b)]
  split
  case isTrue heq => simp [← heq, hx]
  case isFalse => rfl

/-- SKIP is 1 for the seed's second byte, 2 for its first where that is another byte, and 3 for every other byte. -/
theorem skipFor_skipTable (b0 b1 b2 x : Byte) :
    skipFor (skipTable [b0, b1, b2]) x = if x = b1 then 1 else if x = b0 then 2 else 3 := by
  have hdefault : skipFor (List.replicate 256 3) x = 3 := by
    rw [skipFor, List.getD_eq_getElem?_getD, List.getElem?_replicate_of_lt x.isLt]
    rfl
  rw [skipTable, skipFor_set (by rw [List.length_set, List.length_replicate]), skipFor_set List.length_replicate, hdefault]
  rfl

/-- Every shift by SKIP is at least 1 (R73). -/
theorem one_le_skipFor_skipTable (src : Nat → Byte) (c : Nat) (b : Byte) : 1 ≤ skipFor (skipTable (seedOf src c)) b := by
  rw [seedOf, skipFor_skipTable]
  split
  · decide
  · split <;> decide

/-- Settles O28: what FIND writes, and the table's entries byte by byte. -/
theorem skipTableEntries : Obligations.SkipTableEntries := by
  refine ⟨fun s c h => ?_, fun b0 b1 b2 x => ⟨skipTable_length _, skipFor_skipTable b0 b1 b2 x⟩⟩
  rw [State.noteFind, if_neg (show ¬_ < Config.seedLen from Nat.not_lt.2 h)]
  exact ⟨rfl, rfl⟩

/-! ### The Horspool scan (R74) -/

/-- The alignments a shift by SKIP passes over do not start with the seed (R74): S[p + 2] is the byte at index 1 or 0 of
such an alignment, and its entry of SKIP says that it differs from the seed's byte there. -/
theorem not_agrees_of_skipped {src : Nat → Byte} {p c i : Nat} (hpos : 0 < i)
    (hi : i < skipFor (skipTable (seedOf src c)) (src (p + 2))) : ¬Agrees src (p + i) c Config.seedLen := by
  intro h
  rw [seedOf, skipFor_skipTable] at hi
  split at hi
  case isTrue => omega
  case isFalse hsecond =>
    split at hi
    case isTrue =>
      obtain rfl : i = 1 := by omega
      exact hsecond (h 1 (by decide))
    case isFalse hfirst =>
      obtain rfl | rfl : i = 1 ∨ i = 2 := by omega
      · exact hsecond (h 1 (by decide))
      · exact hfirst (h 0 (by decide))

/-- FIND's loop may pass over positions that do not start with the seed. -/
theorem searchFrom_skip {src : Nat → Byte} {c cap : Nat} {tie : MfTie} (best : Candidate) :
    ∀ {n todo p : Nat}, (∀ i, i < n → ¬Agrees src (p + i) c Config.seedLen) →
      searchFrom src c cap tie todo p best = searchFrom src c cap tie (todo - n) (p + n) best
  | 0, _, _, _ => rfl
  | _ + 1, 0, _, _ => by rw [Nat.zero_sub]; rfl
  | n + 1, todo + 1, p, h => by
    have hzero : candidateLength src p c cap = 0 := candidateLength_eq_zero_iff.2 (h 0 n.succ_pos)
    have hrest (i : Nat) (hi : i < n) : ¬Agrees src (p + 1 + i) c Config.seedLen := by
      rw [Nat.succ_add_eq_add_succ]
      exact h (i + 1) (Nat.succ_lt_succ hi)
    rw [searchFrom, hzero, improve, if_pos rfl, searchFrom_skip best hrest, Nat.succ_sub_succ, Nat.succ_add_eq_add_succ]

/-- The Horspool scan finds the best candidate FIND's loop finds over all positions, from any position and any
candidate before it. -/
theorem horspoolFrom_eq_searchFrom {src : Nat → Byte} {c cap : Nat} {tie : MfTie} :
    ∀ {fuel p : Nat} (best : Candidate), c - p ≤ fuel →
      horspoolFrom src c cap tie (skipTable (seedOf src c)) fuel p best = searchFrom src c cap tie (c - p) p best
  | 0, p, best, h => by
    rw [Nat.le_zero.1 h]
    rfl
  | fuel + 1, p, best, h => by
    rw [horspoolFrom]
    split
    case isFalse hdone =>
      rw [Nat.sub_eq_zero_of_le (Nat.le_of_not_lt hdone)]
      rfl
    case isTrue hp =>
      obtain ⟨k, hk⟩ := Nat.exists_eq_add_of_le' (one_le_skipFor_skipTable src c (src (p + 2)))
      have hskipped (i : Nat) (hi : i < k) : ¬Agrees src (p + 1 + i) c Config.seedLen := by
        rw [Nat.succ_add_eq_add_succ]
        exact not_agrees_of_skipped (Nat.succ_pos i) (by omega)
      have htodo : c - p = c - (p + 1) + 1 := by omega
      rw [hk, horspoolFrom_eq_searchFrom _ (by omega), htodo, searchFrom, searchFrom_skip _ hskipped, Nat.sub_sub,
        Nat.succ_add_eq_add_succ]

/-- Settles O29: the scan and FIND's loop find the same candidate. -/
theorem horspoolScanConforms : Obligations.HorspoolScanConforms := by
  intro src len maxLen c tie _
  rw [findByScan, horspoolFrom_eq_searchFrom _ le_rfl, find]

end Sys2Proof.Machine

/-! ## The token encoder (spec/42_token_encoder.md) -/

namespace Sys2Proof

/-! ### The stream elements of a match (R50, R51, R52) -/

/-- A descriptor's value: the nibble above twelve bits of offset. -/
theorem descriptor_ofNat {nib off x : Nat} (hoff : off < 4096) (hx : nib * 4096 + off = x) :
    descriptor (BitVec.ofNat 4 nib) (BitVec.ofNat 12 off) = BitVec.ofNat 16 x := by
  subst hx
  apply BitVec.eq_of_toNat_eq
  have hlow : off % 4096 < 2 ^ 12 := Nat.mod_lt _ (by decide)
  rw [descriptor, BitVec.toNat_append, BitVec.toNat_ofNat, BitVec.toNat_ofNat, BitVec.toNat_ofNat,
    ← Nat.shiftLeft_add_eq_or_of_lt hlow, Nat.shiftLeft_eq]
  omega

section
variable {d : Nat} (hd : 1 ≤ d) (hwindow : d ≤ 4096)
include hd hwindow

/-- A match of the MIO coding is one entry (R50). -/
theorem tokenCode_matchInstr_mio (n : Nat) :
    tokenCode (matchInstr .mio n d) = matchCode [BitVec.ofNat 16 ((n - 3) * 4096 + (d - 1))] [] :=
  congrArg (matchCode [·] []) (descriptor_ofNat (by omega) rfl)

/-- A match of the YAY coding is one entry, and from 18 bytes on the nibble is 0 and a byte has the length (R51). -/
theorem tokenCode_matchInstr_yay (n : Nat) :
    tokenCode (matchInstr .yay n d) =
      if n < 18 then matchCode [BitVec.ofNat 16 ((n - 2) * 4096 + (d - 1))] []
      else matchCode [BitVec.ofNat 16 (d - 1)] [BitVec.ofNat 8 (n - 18)] := by
  have hoff : d - 1 < 4096 := by omega
  dsimp only [matchInstr]
  split
  · exact congrArg (matchCode [·] []) (descriptor_ofNat hoff rfl)
  · exact congrArg (matchCode [·] [BitVec.ofNat 8 (n - 18)]) (descriptor_ofNat (nib := 0) hoff (Nat.zero_add _))

/-- A match of the RVL coding is one entry, with the length in the nibble, in a byte where the nibble is 0, or in a second
entry where it is 1 (R52). -/
theorem tokenCode_matchInstr_rvl (n : Nat) :
    tokenCode (matchInstr .rvl n d) =
      if n < 17 then matchCode [BitVec.ofNat 16 ((n - 1) * 4096 + (d - 1))] []
      else if n < 273 then matchCode [BitVec.ofNat 16 (d - 1)] [BitVec.ofNat 8 (n - 17)]
      else matchCode [BitVec.ofNat 16 (4096 + (d - 1)), BitVec.ofNat 16 (n - 273)] [] := by
  have hoff : d - 1 < 4096 := by omega
  dsimp only [matchInstr]
  split
  · exact congrArg (matchCode [·] []) (descriptor_ofNat hoff rfl)
  · split
    · exact congrArg (matchCode [·] [BitVec.ofNat 8 (n - 17)]) (descriptor_ofNat (nib := 0) hoff (Nat.zero_add _))
    · exact congrArg (matchCode [·, BitVec.ofNat 16 (n - 273)] []) (descriptor_ofNat (nib := 1) hoff rfl)

end

end Sys2Proof

namespace Sys2Proof.Machine

/-! ### Token sequences, a token at a time -/

/-- The entries of a sequence are its first token's and then the rest's. -/
theorem dictOf_cons (coding : Coding) (t : Token) (ts : List Token) :
    dictOf coding (t :: ts) = dictOf coding [t] ++ dictOf coding ts := by
  simp [dictOf]

/-- The bytes of a sequence are its first token's and then the rest's. -/
theorem bytesOf_cons (coding : Coding) (t : Token) (ts : List Token) :
    bytesOf coding (t :: ts) = bytesOf coding [t] ++ bytesOf coding ts := by
  simp [bytesOf]

/-- The literals of a sequence are counted token by token. -/
theorem literalsIn_cons (t : Token) (ts : List Token) : literalsIn (t :: ts) = literalsIn [t] + literalsIn ts := by
  cases t <;> simp [literalsIn, Nat.add_comm]

/-- The matches of a sequence are counted token by token. -/
theorem copiesIn_cons (t : Token) (ts : List Token) : copiesIn (t :: ts) = copiesIn [t] + copiesIn ts := by
  cases t <;> simp [copiesIn, Nat.add_comm]

/-- A sequence covers the bytes of its two parts. -/
theorem spanOf_append (ts us : List Token) : spanOf (ts ++ us) = spanOf ts + spanOf us := by
  induction ts with
  | nil => simp [spanOf]
  | cons t ts ih => rw [List.cons_append, spanOf, spanOf, ih, Nat.add_assoc]

/-- A running ENCODE after tokens that fit: each stream with all their elements, the flag bits recorded in order, the
counters and the cursor moved by their numbers (R76, R79, R80, R81). -/
theorem foldl_afterToken (ts : List Token) (s : State) :
    ts.foldl afterToken s =
      let f := ts.foldl (recordFlag s.fw) (s.flags, s.enc.facc, s.enc.fbits)
      { s with
        flags := f.1
        dict := s.dict ++ dictOf s.coding ts
        bytes := s.bytes ++ bytesOf s.coding ts
        enc := ⟨s.enc.c + spanOf ts, f.2.1, f.2.2, s.enc.tokens + ts.length⟩
        litCount := s.litCount + BitVec.ofNat 32 (literalsIn ts)
        matchCount := s.matchCount + BitVec.ofNat 32 (copiesIn ts) } := by
  induction ts generalizing s with
  | nil => simp [dictOf, bytesOf, spanOf, literalsIn, copiesIn]
  | cons t ts ih =>
    rw [List.foldl_cons, ih, dictOf_cons, bytesOf_cons, literalsIn_cons, copiesIn_cons, spanOf, BitVec.ofNat_add,
      BitVec.ofNat_add, List.length_cons, Nat.add_comm ts.length, List.foldl_cons]
    simp only [← List.append_assoc, ← BitVec.add_assoc, ← Nat.add_assoc]
    rfl

/-- Tokens leave SEED and SKIP alone and take nothing from them (R65). -/
theorem foldl_afterToken_withFinder (ts : List Token) (s : State) (seed : List Byte) (skip : List Nat) :
    ts.foldl afterToken { s with seed := seed, skip := skip } =
      { ts.foldl afterToken s with seed := seed, skip := skip } := by
  rw [foldl_afterToken, foldl_afterToken]
  rfl

/-! ### The streams after a token -/

@[simp] theorem afterToken_coding (s : State) (t : Token) : (afterToken s t).coding = s.coding := rfl
@[simp] theorem afterToken_fw (s : State) (t : Token) : (afterToken s t).fw = s.fw := rfl
@[simp] theorem afterToken_dict (s : State) (t : Token) : (afterToken s t).dict = s.dict ++ dictOf s.coding [t] := rfl
@[simp] theorem afterToken_bytes (s : State) (t : Token) : (afterToken s t).bytes = s.bytes ++ bytesOf s.coding [t] := rfl

/-- FLAGBIT adds one flag bit, in the accumulator or in the word it flushes (R81). -/
theorem recordFlag_count (fw : Nat) (p : List Word × Word × Nat) (t : Token) :
    fw * (recordFlag fw p t).1.length + (recordFlag fw p t).2.2 = fw * p.1.length + p.2.2 + 1 := by
  unfold recordFlag
  dsimp only
  split
  · dsimp only
    rw [List.length_append, List.length_singleton, Nat.mul_add]
    omega
  · rw [Nat.add_assoc]

/-- A token adds one flag bit to FLAGS and the accumulator (R81). -/
theorem afterToken_flagBits (s : State) (t : Token) :
    (afterToken s t).fw * (afterToken s t).flags.length + (afterToken s t).enc.fbits =
      s.fw * s.flags.length + s.enc.fbits + 1 :=
  recordFlag_count s.fw (s.flags, s.enc.facc, s.enc.fbits) t

/-! ### Room for a round's tokens -/

/-- A token raises nothing where the buffers have room for its entries, its bytes and the word its flag bit fills (R60). -/
theorem tokenRaises_eq_none {s : State} {t : Token}
    (hdict : s.dict.length + (dictOf s.coding [t]).length ≤ s.params.dictCap.toNat)
    (hbytes : s.bytes.length + (bytesOf s.coding [t]).length ≤ s.params.bytesCap.toNat)
    (hflags : s.enc.fbits + 1 = s.fw → s.flags.length < s.params.flagsCap.toNat) : tokenRaises s t = none := by
  rw [tokenRaises, if_neg (Nat.not_lt.2 hdict), if_neg (Nat.not_lt.2 hbytes),
    if_neg fun h => Nat.not_le.2 (hflags h.1) h.2]

/-- A round raises nothing where the buffers have room for its entries, its bytes and the words its flag bits fill
(R60). -/
theorem roundRaises_eq_none : ∀ {ts : List Token} {s : State},
    s.dict.length + (dictOf s.coding ts).length ≤ s.params.dictCap.toNat →
    s.bytes.length + (bytesOf s.coding ts).length ≤ s.params.bytesCap.toNat →
    s.fw * s.flags.length + s.enc.fbits + ts.length < s.fw * (s.params.flagsCap.toNat + 1) → roundRaises s ts = none
  | [], _, _, _, _ => rfl
  | t :: ts, s, hdict, hbytes, hflags => by
    rw [dictOf_cons, List.length_append, ← Nat.add_assoc] at hdict
    rw [bytesOf_cons, List.length_append, ← Nat.add_assoc] at hbytes
    rw [List.length_cons] at hflags
    have hword : s.enc.fbits + 1 = s.fw → s.flags.length < s.params.flagsCap.toNat := fun hfull => by
      have hmul : s.fw * (s.flags.length + 1) < s.fw * (s.params.flagsCap.toNat + 1) := by
        rw [Nat.mul_add s.fw s.flags.length]
        omega
      exact Nat.lt_of_succ_lt_succ (Nat.lt_of_mul_lt_mul_left hmul)
    have hrest : roundRaises (afterToken s t) ts = none := by
      refine roundRaises_eq_none ?_ ?_ ?_
      · rwa [afterToken_dict, List.length_append]
      · rwa [afterToken_bytes, List.length_append]
      · rw [afterToken_flagBits]
        simpa [Nat.add_assoc, Nat.add_comm 1] using hflags
    rw [roundRaises, tokenRaises_eq_none (by omega) (by omega) hword]
    simp only [hrest, Option.map_none]

/-- A match has at most two entries and at most one byte (R80). -/
theorem token_copy_lengths (coding : Coding) (n d : Nat) :
    (dictOf coding [.copy n d]).length ≤ 2 ∧ (bytesOf coding [.copy n d]).length ≤ 1 := by
  simpa [dictOf, bytesOf, tokenInstr] using tokenCode_matchInstr_lengths coding n d

/-- A round is at most a literal and a match (R76, R77), so at most two entries and two bytes. -/
theorem decideTokens_sizes (coding : Coding) (src : Nat → Byte) (findAt : Nat → Found) (maxLen c : Nat) :
    (decideTokens src findAt maxLen c).length ≤ 2 ∧ (dictOf coding (decideTokens src findAt maxLen c)).length ≤ 2 ∧
      (bytesOf coding (decideTokens src findAt maxLen c)).length ≤ 2 := by
  have hliteral (b : Byte) : dictOf coding [.literal b] = [] ∧ bytesOf coding [.literal b] = [b] := ⟨rfl, rfl⟩
  have hcopy := token_copy_lengths coding
  unfold decideTokens
  dsimp only
  split
  · simp [hliteral]
  · split
    · rw [dictOf_cons, bytesOf_cons, (hliteral _).1, (hliteral _).2]
      exact ⟨le_rfl, (hcopy _ _).1, Nat.succ_le_succ (hcopy _ _).2⟩
    · exact ⟨Nat.le_succ 1, (hcopy _ _).1, (hcopy _ _).2.trans (Nat.le_succ 1)⟩

/-- EMIT_MATCH, where its entries, its bytes and the word its flag bit fills have room (R80). -/
theorem emitMatch_fits {s : State} {n d : Nat} (h : tokenRaises s (.copy n d) = none) :
    ∃ v, emitMatch n d s = .ok v ∧ v.advance n = afterToken s (.copy n d) := by
  have hemit := emitToken_fits h
  rw [emitToken] at hemit
  split at hemit
  · cases hemit
  · exact ⟨_, ‹_›, Except.ok.inj hemit⟩

/-- A flag word takes the flag bits of a round, and at most one word is flushed (R76, R81). -/
theorem flagBits_lt {fw words partialBits round cap : Nat} (hfw : 8 ≤ fw) (hround : round ≤ 2)
    (hpartial : partialBits < fw) (hroom : words < cap) : fw * words + partialBits + round < fw * (cap + 1) := by
  have hmul : fw * (words + 1) ≤ fw * cap := Nat.mul_le_mul_left fw hroom
  rw [Nat.mul_add] at hmul ⊢
  omega

/-! ### The tokens of a source -/

/-- A round covers at least one source byte and none past the end, where no FIND passes the end (R76, R83). -/
theorem decideTokens_cover {findAt : Nat → Found} {len maxLen c : Nat} (hc : c < len) (hmax : 1 ≤ maxLen)
    (hfind : ∀ x, (findAt x).len ≤ len - x) (src : Nat → Byte) :
    1 ≤ spanOf (decideTokens src findAt maxLen c) ∧ c + spanOf (decideTokens src findAt maxLen c) ≤ len := by
  have hhere := hfind c
  have hnext := hfind (c + 1)
  unfold decideTokens Config.minMatch
  dsimp only
  split
  · exact ⟨Nat.le_refl 1, hc⟩
  · split <;> simp only [spanOf, Token.span] <;> omega

/-- The tokens from a cursor on cover exactly the bytes from there to the end (R76, R83). -/
theorem spanOf_tokensFrom (src : Nat → Byte) {len maxLen : Nat} (hmax : 2 ≤ maxLen) (tie : MfTie) :
    ∀ {fuel c : Nat}, len - c ≤ fuel → spanOf (tokensFrom src len maxLen tie fuel c) = len - c
  | 0, _, hfuel => (Nat.le_zero.1 hfuel).symm
  | fuel + 1, c, hfuel => by
    rw [tokensFrom]
    split
    · obtain ⟨hpos, hend⟩ := decideTokens_cover ‹c < len› (by omega : 1 ≤ maxLen)
        (find_len_le src len hmax tie) src
      dsimp only
      rw [spanOf_append, spanOf_tokensFrom src hmax tie (by omega)]
      omega
    · exact (Nat.sub_eq_zero_of_le (Nat.le_of_not_lt ‹_›)).symm

/-- At the first byte the window is empty, and FIND returns (0, 0) (R67). -/
theorem find_zero (src : Nat → Byte) (len maxLen : Nat) (tie : MfTie) : find src len maxLen tie 0 = ⟨0, 0⟩ := by
  unfold find
  split <;> rfl

/-- A source that has a byte starts with the literal of it (R91). -/
theorem sourceTokens_succ (src : Nat → Byte) (len maxLen : Nat) (tie : MfTie) :
    sourceTokens src (len + 1) maxLen tie = .literal (src 0) :: tokensFrom src (len + 1) maxLen tie len 1 := by
  have hround : decideTokens src (find src (len + 1) maxLen tie) maxLen 0 = [.literal (src 0)] :=
    if_pos (by rw [find_zero]; decide)
  rw [sourceTokens, tokensFrom, if_pos (Nat.succ_pos len)]
  dsimp only
  rw [hround]
  rfl

/-! ### The obligations -/

/-- Settles O31: by the equation of FLAGBIT, one clause for each of its branches. -/
theorem flagBitRecordsTheToken : Obligations.FlagBitRecordsTheToken := by
  intro bit s _
  have hacc : s.faccWith bit = if bit then s.enc.facc ||| (1#32 <<< (s.fw - 1 - s.enc.fbits)) else s.enc.facc := by
    cases bit <;> simp [State.faccWith, flagMask]
  rw [flagBit_eq, hacc]
  refine ⟨fun hpart => ?_, fun hfull hroom => ?_, fun hfull hno => ?_⟩
  · rw [if_neg hpart.ne]
  · rw [if_pos hfull, if_pos hroom]
  · rw [if_pos hfull, if_neg (Nat.not_lt.2 hno)]
    exact ⟨_, rfl, rfl, rfl, rfl⟩

/-- Settles O32: the match is emitted, and its elements are those of the form that its coding and its length give. -/
theorem emitMatchEffect : Obligations.EmitMatchEffect := by
  intro n d s _ _ hd hwindow _ hflags hdict hbytes off added
  have hcode : tokenCode (matchInstr s.coding n d) =
      matchCode (added.1.map (BitVec.ofNat 16)) (added.2.map (BitVec.ofNat 8)) := by
    dsimp only [added, off]
    cases s.coding with
    | mio => exact tokenCode_matchInstr_mio hd hwindow n
    | yay =>
      rw [tokenCode_matchInstr_yay hd hwindow]
      split <;> rfl
    | rvl =>
      rw [tokenCode_matchInstr_rvl hd hwindow]
      split
      · rfl
      · split <;> rfl
  have hentries : dictOf s.coding [.copy n d] = added.1.map (BitVec.ofNat 16) :=
    (List.append_nil _).trans (congrArg TokenCode.dict hcode)
  have hescapes : bytesOf s.coding [.copy n d] = added.2.map (BitVec.ofNat 8) :=
    (List.append_nil _).trans (congrArg TokenCode.bytes hcode)
  have hfits : tokenRaises s (.copy n d) = none := by
    obtain ⟨hdictLen, hbytesLen⟩ := token_copy_lengths s.coding n d
    exact tokenRaises_eq_none (by omega) (by omega) fun _ => hflags
  obtain ⟨v, hemit, hv⟩ := emitMatch_fits hfits
  have hcursor : v.enc.c + n = s.enc.c + n := congrArg (·.enc.c) hv
  refine ⟨v, hemit, ?_, ?_, congrArg State.matchCount hv, ?_, congrArg (·.enc.tokens) hv, Nat.add_right_cancel hcursor,
    (congrArg State.mem hv :)⟩
  · exact hentries ▸ congrArg State.dict hv
  · exact hescapes ▸ congrArg State.bytes hv
  · exact (congrArg State.litCount hv).trans (BitVec.add_zero _)

/-- Settles O33: the round's tokens have room, so they are emitted, and what they leave is what each adds in turn. -/
theorem encodeRoundCompletes : Obligations.EncodeRoundCompletes := by
  intro s hphase hhost hlegal hc hpartial hflags hdict hbytes here next b ts
  obtain ⟨hlen, hentries, hescapes⟩ := decideTokens_sizes s.coding s.srcByte s.find s.maxLen s.enc.c
  have hfits : roundRaises s.noteFinds ts = none := by
    rw [State.noteFinds_eq]
    refine roundRaises_eq_none (hdict.trans' (Nat.add_le_add_left hentries _))
      (hbytes.trans' (Nat.add_le_add_left hescapes _)) ?_
    exact flagBits_lt s.fw_ge hlen hpartial hflags
  have hstep : step s = .next (ts.foldl afterToken s.noteFinds) := by
    rw [step_of_quiet hhost, engineStep_encode hphase, encodeStep, hlegal, if_neg nofun, if_pos hc, encodeRound,
      show s.nextTokens = ts from rfl, emitTokens_fits hfits, settle]
  rw [State.noteFinds_eq, foldl_afterToken_withFinder] at hstep
  refine ⟨_, hstep, ?_⟩
  rw [foldl_afterToken]
  exact ⟨hphase, rfl, rfl, rfl, rfl, rfl, rfl, rfl, rfl, rfl, rfl⟩

/-- Settles O34: a partial word stands for fewer than FW tokens, so it is the one word that rounding up adds. -/
theorem flagWordsCoverTheTokens : Obligations.FlagWordsCoverTheTokens := by
  intro s hinv hroom
  have hpos : 0 < s.fw := Nat.lt_of_lt_of_le (by decide) s.fw_ge
  have hpartial := hinv.partialWord
  have hceil : (s.enc.tokens + s.fw - 1) / s.fw = s.flags.length + (s.enc.fbits + s.fw - 1) / s.fw := by
    rw [← hinv.described, Nat.add_assoc, Nat.add_sub_assoc (by omega), Nat.mul_add_div hpos]
  rw [finishFlags_eq, if_pos hroom, hceil]
  rcases Nat.eq_zero_or_pos s.enc.fbits with hnone | hsome
  · have hzero : (s.enc.fbits + s.fw - 1) / s.fw = 0 := Nat.div_eq_of_lt (by omega)
    rw [if_neg hnone.not_gt, hzero]
    exact ⟨s, rfl, rfl, hnone, rfl, rfl, rfl⟩
  · have hone : (s.enc.fbits + s.fw - 1) / s.fw = 1 := Nat.div_eq_of_lt_le (by omega) (by omega)
    rw [if_pos hsome, hone]
    exact ⟨_, rfl, List.length_append, rfl, rfl, rfl, rfl⟩

/-- Settles O35: each round covers the bytes its cursor advances by, and the first finds an empty window. -/
theorem tokensCoverTheSource : Obligations.TokensCoverTheSource := by
  intro src len maxLen tie hmax hlen
  obtain ⟨len, rfl⟩ := Nat.exists_eq_succ_of_ne_zero (by omega : len ≠ 0)
  exact ⟨spanOf_tokensFrom src (by omega) tie le_rfl, _, sourceTokens_succ src len maxLen tie⟩

end Sys2Proof.Machine

/-! ## The stream assembler (spec/43_stream_assembler.md) -/

namespace Sys2Proof.Machine

/-! ### The end of ENCODE (R86, R112) -/

/-- With the source encoded, the step of a running ENCODE is the command's end (R112). -/
theorem step_of_sourceEncoded {s : State} (hphase : s.phase = .runEncode) (hhost : s.host = [])
    (hlegal : s.regionsLegal = true) (hc : s.latSrcLen.toNat ≤ s.enc.c) : step s = .next (settle (finishEncode s)) := by
  rw [step_of_quiet hhost, engineStep_encode hphase, encodeStep, hlegal, if_neg nofun, if_neg hc.not_gt]

/-- Once FINISH_FLAGS has succeeded, the fit check alone decides how ENCODE ends (R86). -/
theorem finishEncode_of_finishFlags {s t : State} (h : finishFlags s = .ok t) :
    finishEncode s =
      if t.latDstCap.toNat < t.containerSize then .error (.containerTooBig, t)
      else .ok ((t.writeOutput t.container).release.complete t.containerSize) := by
  rw [finishEncode, h]

/-- FINISH_FLAGS that succeeds changes the streams and the encoder alone (R82). -/
theorem sameButStreams_of_finishFlags {s t : State} (h : finishFlags s = .ok t) : SameButStreams s t := by
  rcases finishFlags_cases s with hraise | ⟨u, hok, hsame⟩
  · cases hraise.symm.trans h
  · cases hok.symm.trans h
    exact hsame

/-- Settles O38: past FINISH_FLAGS, each outcome of the fit check is one branch of the command's end. -/
theorem encodeEndsByTheFitCheck : Obligations.EncodeEndsByTheFitCheck := by
  intro s t hphase hhost hlegal hc hfin
  have hstep := step_of_sourceEncoded hphase hhost hlegal hc
  rw [finishEncode_of_finishFlags hfin] at hstep
  obtain ⟨flags, dict, bytes, enc, rfl⟩ := sameButStreams_of_finishFlags hfin
  refine ⟨fun hbig => ?_, fun hfits => ?_⟩
  · rw [if_pos hbig] at hstep
    exact ⟨_, hstep, rfl, rfl, rfl, rfl, rfl, rfl, rfl⟩
  · rw [if_neg hfits.not_gt] at hstep
    exact ⟨_, hstep, rfl, rfl, rfl, rfl, ⟨rfl, rfl, rfl⟩, rfl, rfl, rfl⟩

/-! ### The container's header and the regions of Tables (R48, R87) -/

/-- The four fields of a container's header (R48, R87, R88, R89). -/
def State.header (s : State) : List Byte :=
  match s.layout with
  | .tables =>
    be32 (magicOf s.variant) ++ be32 s.latSrcLen ++ be32 (BitVec.ofNat 32 (16 + 4 * s.flags.length)) ++
      be32 (BitVec.ofNat 32 (16 + 4 * s.flags.length + 2 * s.dict.length))
  | .groups =>
    be32 (magicOf s.variant) ++ be32 s.params.groupsHdrW1 ++ be32 s.latSrcLen ++
      be32 (BitVec.ofNat 32 (16 + 2 * s.flags.length + 2 * s.dict.length))
  | .stream => be32 (magicOf s.variant) ++ be32 s.latSrcLen ++ be32 0 ++ be32 0

/-- A container's first HDR_LEN bytes are its header (R48). -/
theorem State.container_take_header (s : State) : s.container.take 16 = s.header := by
  unfold State.container State.header
  cases s.layout <;> rfl

/-- The decoded-size field, where DECODE_HEADER reads it, holds L (R92). -/
theorem State.container_sizeField (s : State) : (s.container.drop (sizeFieldAt s.layout)).take 4 = be32 s.latSrcLen := by
  unfold State.container
  cases s.layout <;> rfl

/-- After a Tables header stand the flag words, the dictionary and the bytes (R87). -/
theorem State.container_drop_header_tables {s : State} (h : s.layout = .tables) :
    s.container.drop 16 = s.flags.flatMap be32 ++ (s.dict.flatMap be16 ++ s.bytes) := by
  rw [State.container, h, ← List.append_assoc]
  rfl

/-- Settles O37: the header and the regions are read off the assembled container, layout by layout. -/
theorem headerHoldsTheSourceLength : Obligations.HeaderHoldsTheSourceLength := by
  intro s
  refine ⟨?_, ?_, fun htables => ?_⟩
  · have hfield := s.container_sizeField
    cases hlayout : s.layout <;> rw [hlayout] at hfield <;> exact hfield
  · intro magic
    have hmagic : magic = be32 (magicOf s.variant) := by
      dsimp only [magic]
      cases s.variant <;> rfl
    rw [s.container_take_header, State.header, hmagic]
    cases s.layout <;> rfl
  · have hflags : (s.flags.flatMap be32).length = 4 * s.flags.length :=
      length_flatMap_const (flagWordBytes_length .tables) _
    have hdict : (s.dict.flatMap be16).length = 2 * s.dict.length :=
      length_flatMap_const (f := be16) (k := 2) (fun _ => rfl) _
    have hbody := State.container_drop_header_tables htables
    have hregion : s.container.drop (16 + 4 * s.flags.length) = s.dict.flatMap be16 ++ s.bytes := by
      rw [← List.drop_drop, hbody, List.drop_left' hflags]
    refine ⟨?_, ?_, ?_⟩
    · rw [hbody, List.take_left' hflags]
    · rw [hregion, List.take_left' hdict]
    · rw [← List.drop_drop, hregion, List.drop_left' hdict]

end Sys2Proof.Machine

/-! ## The decoder (spec/44_decoder.md) -/

namespace Sys2Proof.Machine

/-! ### The tokens, each said once (R99, R100) -/

/-- A token is a literal or a match of some coding (R49). -/
theorem tokenOf_ne_none_cases {i : Instr} (h : tokenOf i ≠ none) :
    (∃ b, i = .lit b) ∨ ∃ coding, i.coding? = some coding := by
  cases i with
  | lit b => exact .inl ⟨b, rfl⟩
  | matchMio | matchYayS | matchYayL | matchRvlS | matchRvlM | matchRvlL => exact .inr ⟨_, rfl⟩
  | _ => exact absurd rfl h

/-- Only a short match can be ill formed, and every state refuses it (R51, R52). -/
theorem exec_of_not_wf {i : Instr} (h : i.wf = false) (s : State) : exec i s = .refused .illFormedToken := by
  cases i with
  | matchYayS nib off => exact if_pos (Nat.lt_of_not_le (of_decide_eq_false h))
  | matchRvlS nib off => exact if_pos (Nat.lt_of_not_le (of_decide_eq_false h))
  | _ => cases h

/-- What stands in a well-formed token's way is the refusal it ends in (R96). -/
theorem exec_of_tokenGuard {i : Instr} {s : State} {r : Refusal} (hwf : i.wf = true) (htok : tokenOf i ≠ none)
    (hguard : tokenGuard i.coding? s = some r) : exec i s = .refused r := by
  rcases tokenOf_ne_none_cases htok with ⟨b, rfl⟩ | ⟨coding, hc⟩
  · change execLit b s = _
    rw [execLit, show tokenGuard none s = some r from hguard]
  · obtain ⟨n, off, -, hexec⟩ := exec_match hwf hc
    rw [hexec, doMatch, ← hc, hguard]

/-- Everything a token that goes on can do: a literal is put, a match is put, or CHECK_MATCH ends the command (R99, R100,
R102). -/
theorem exec_token_cases {i : Instr} {s t : State} (htok : tokenOf i ≠ none) (hstep : exec i s = .next t) :
    s.phase = .runDecode ∧
      ((∃ b, t = s.putLiteral b) ∨ (∃ e, t = s.errorEntry e) ∨
        ∃ n off, 1 ≤ n ∧ s.dec.o + n ≤ s.dec.n ∧ t = s.putMatch n off) := by
  rcases tokenOf_ne_none_cases htok with ⟨b, rfl⟩ | ⟨coding, hc⟩
  · rcases execLit_cases b s with ⟨r, hstop⟩ | ⟨hg, hok⟩
    · cases hstop.symm.trans hstep
    · cases hok.symm.trans hstep
      exact ⟨((tokenGuard_eq_none_iff _ _).1 hg).1, .inl ⟨b, rfl⟩⟩
  · cases hwf : i.wf with
    | false => cases (exec_of_not_wf hwf s).symm.trans hstep
    | true =>
      obtain ⟨n, off, hn, hexec⟩ := exec_match hwf hc
      rw [hexec] at hstep
      rcases doMatch_cases coding n off s with ⟨r, -, hstop⟩ | ⟨hg, ⟨-, he⟩ | ⟨-, -, he⟩ | ⟨-, hroom, hok⟩⟩
      · cases hstop.symm.trans hstep
      all_goals have hphase := ((tokenGuard_eq_none_iff _ _).1 hg).1
      · cases he.symm.trans hstep
        exact ⟨hphase, .inr (.inl ⟨_, rfl⟩)⟩
      · cases he.symm.trans hstep
        exact ⟨hphase, .inr (.inl ⟨_, rfl⟩)⟩
      · cases hok.symm.trans hstep
        exact ⟨hphase, .inr (.inr ⟨n, _, hn, hroom, rfl⟩)⟩

/-- A literal that can execute is put (R99). -/
theorem TokenReady.exec_lit {s : State} (h : TokenReady s) (b : Byte) : exec (.lit b) s = .next (s.putLiteral b) := by
  change execLit b s = _
  rw [execLit, h.guard (.inl rfl)]

/-- A match that can execute is decided by CHECK_MATCH (R100). -/
theorem TokenReady.doMatch_eq {s : State} (h : TokenReady s) {coding : Coding} (hc : s.coding = coding) (n : Nat)
    (off : Offset) : doMatch coding n off s = .next (s.runMatch n off.toNat) := by
  rw [doMatch, h.guard (.inr (congrArg some hc.symm))]

/-- A match that passes CHECK_MATCH is put (R100, R102). -/
theorem State.runMatch_of_passes {s : State} {n off : Nat} (hoff : off < s.dec.o) (hn : s.dec.o + n ≤ s.dec.n) :
    s.runMatch n off = s.putMatch n off := by
  rw [State.runMatch, (checkMatch_eq_none_iff n off s).2 ⟨hoff, hn⟩]

/-- A match executed as `doMatch` completes where CHECK_MATCH passes. -/
theorem matchCompletes_of_exec {i : Instr} {coding : Coding} {n : Nat} {off : Offset}
    (hexec : ∀ s, exec i s = doMatch coding n off s) : MatchCompletes i coding n off := by
  intro s hready hc hoff hn
  rw [hexec, hready.doMatch_eq hc, State.runMatch_of_passes hoff hn]
  rfl

/-- A match executed as `doMatch` ends the command by the first check of CHECK_MATCH that fails. -/
theorem matchFails_of_exec {i : Instr} {coding : Coding} {n : Nat} {off : Offset}
    (hexec : ∀ s, exec i s = doMatch coding n off s) : MatchFails i coding n off := by
  intro s hready hc
  rw [hexec, hready.doMatch_eq hc, State.runMatch, checkMatch]
  refine ⟨fun hbefore => ?_, fun hoff hpast => ?_⟩
  · rw [if_pos hbefore]
  · rw [if_neg hoff.not_ge, if_pos hpast]

/-- What holds of every instruction that runs `doMatch` holds of the six match forms, each with the length of R101. -/
theorem forall_match_forms {P : Instr → Coding → Nat → Offset → Prop}
    (h : ∀ {i coding n off}, (∀ s, exec i s = doMatch coding n off s) → P i coding n off) :
    (∀ nib off, P (.matchMio nib off) .mio (nib.toNat + 3) off) ∧
    (∀ nib off, 1 ≤ nib.toNat → P (.matchYayS nib off) .yay (nib.toNat + 2) off) ∧
    (∀ off (e : Byte), P (.matchYayL off e) .yay (e.toNat + 18) off) ∧
    (∀ nib off, 2 ≤ nib.toNat → P (.matchRvlS nib off) .rvl (nib.toNat + 1) off) ∧
    (∀ off (e : Byte), P (.matchRvlM off e) .rvl (e.toNat + 17) off) ∧
    (∀ off (x : Half), P (.matchRvlL off x) .rvl (x.toNat + 273) off) :=
  ⟨fun _ _ => h fun _ => rfl, fun _ _ hnib => h fun _ => if_neg (Nat.not_lt.2 hnib), fun _ _ => h fun _ => rfl,
    fun _ _ hnib => h fun _ => if_neg (Nat.not_lt.2 hnib), fun _ _ => h fun _ => rfl, fun _ _ => h fun _ => rfl⟩

/-- Settles O13: a ready state puts the literal. -/
theorem literalTokenCompletes : Obligations.LiteralTokenCompletes := fun b _ h => h.exec_lit b

/-- Settles O14: each match form is a `doMatch`. -/
theorem matchTokensComplete : Obligations.MatchTokensComplete := forall_match_forms matchCompletes_of_exec

/-- Settles O15: each match form is a `doMatch`. -/
theorem matchTokensAreChecked : Obligations.MatchTokensAreChecked := forall_match_forms matchFails_of_exec

/-- Each byte COPY writes equals the byte `off + 1` before it, read after the copy (R103). -/
theorem read_copyBytes_inside {base off : Nat} : ∀ (n : Nat) {m : List Host.Cell} {o k : Nat}, Memory.wf m = true →
    off < o → base + o + n ≤ Config.addressSpace → k < n →
    Memory.read (copyBytes m base o off n) (base + (o + k)) =
      Memory.read (copyBytes m base o off n) (base + (o + k - 1 - off))
  | n + 1, m, o, 0, hwf, hoff, _, _ => by
    rw [copyBytes, read_copyBytes_outside n (by omega), read_copyBytes_outside n (by omega), Nat.add_zero,
      Memory.read_write_same hwf, Memory.read_write_other (by omega), backReference]
    congr 1
    omega
  | n + 1, m, o, k + 1, hwf, hoff, hspace, hk => by
    have hstart : base + o < Config.addressSpace := by omega
    rw [copyBytes, show o + (k + 1) = o + 1 + k by omega]
    exact read_copyBytes_inside n (Memory.write_wf hstart hwf) (Nat.lt_succ_of_lt hoff) (by omega) (by omega)

/-- Settles O16: inside and outside the bytes COPY writes. -/
theorem copyIsByteByByteForward : Obligations.CopyIsByteByByteForward := by
  intro m base o off n hwf hoff hspace m'
  exact ⟨fun k hk => read_copyBytes_inside n hwf hoff hspace hk, fun x hx => read_copyBytes_outside n hx⟩

/-- Settles O17: a token that goes on is a literal put, a match put, or an error. -/
theorem tokenFrame : Obligations.TokenFrame := by
  intro i s t htok hstep
  rcases (exec_token_cases htok hstep).2 with ⟨b, rfl⟩ | ⟨e, rfl⟩ | ⟨n, off, hn, -, rfl⟩
  · refine ⟨rfl, rfl, rfl, rfl, rfl, rfl, rfl, rfl, rfl, rfl, rfl, rfl, rfl, rfl, rfl, rfl, rfl, rfl, rfl, fun x hx => ?_,
      fun _ => ⟨rfl, rfl, rfl, rfl, rfl, rfl, Nat.lt_succ_self _⟩⟩
    change x < _ ∨ s.latDstAddr.toNat + (s.dec.o + 1) ≤ x at hx
    refine Memory.read_write_other ?_
    rw [regionAddress]
    omega
  · exact ⟨rfl, rfl, rfl, rfl, rfl, rfl, rfl, rfl, rfl, rfl, rfl, rfl, rfl, rfl, rfl, rfl, rfl, rfl, rfl, fun _ _ => rfl,
      nofun⟩
  · refine ⟨rfl, rfl, rfl, rfl, rfl, rfl, rfl, rfl, rfl, rfl, rfl, rfl, rfl, rfl, rfl, rfl, rfl, rfl, rfl, fun x hx => ?_,
      fun _ => ⟨rfl, rfl, rfl, rfl, rfl, rfl, Nat.lt_add_of_pos_right hn⟩⟩
    change x < _ ∨ s.latDstAddr.toNat + (s.dec.o + n) ≤ x at hx
    exact read_copyBytes_outside n (by omega)

/-- Settles O18: a token is refused for the first of the guard's reasons, and an ill-formed one for its nibble. -/
theorem tokensNeedARunningDecode : Obligations.TokensNeedARunningDecode := by
  refine ⟨fun i s hwf htok => ⟨fun hphase => ?_, fun hphase hfits => ?_, fun hphase hfits hfull => ?_,
    fun hphase hfits hroom hmatch hother => ?_⟩, fun nib off s hnib => ?_, fun nib off s hnib => ?_⟩
  · exact exec_of_tokenGuard hwf htok (if_pos hphase)
  · refine exec_of_tokenGuard hwf htok ?_
    rw [tokenGuard, if_neg (not_not.2 hphase), if_pos hfits]
  · refine exec_of_tokenGuard hwf htok ?_
    rw [tokenGuard, if_neg (not_not.2 hphase), hfits, if_neg nofun, if_pos hfull]
  · refine exec_of_tokenGuard hwf htok ?_
    rw [tokenGuard, if_neg (not_not.2 hphase), hfits, if_neg nofun, if_neg hroom.not_ge, if_pos ⟨hmatch, hother⟩]
  · exact exec_of_not_wf (i := .matchYayS nib off) (decide_eq_false (Nat.not_le.2 hnib)) s
  · exact exec_of_not_wf (i := .matchRvlS nib off) (decide_eq_false (Nat.not_le.2 hnib)) s

end Sys2Proof.Machine

namespace Sys2Proof.Machine

/-! ### The engine's step of a running DECODE (R96) -/

section
variable {s : State} (hin : s.inputFits = true) (hout : s.outputFits = true) (hroom : s.dec.o < s.dec.n)
include hin hout hroom

/-- With flag bits left, a fetched token is executed (R96). -/
theorem decodeStep_of_fetched {t : State} {i : Instr} (hleft : s.dec.left ≠ 0) (hfetch : fetchToken s = .ok (i, t)) :
    decodeStep s = exec i t := by
  simp [decodeStep, hin, hout, hroom.not_ge, decoderState, hleft, hfetch]

/-- With flag bits left, a failed read of a token ends the command (R94, R96). -/
theorem decodeStep_of_overrun {e : ErrorCause} (hleft : s.dec.left ≠ 0) (hfetch : fetchToken s = .error e) :
    decodeStep s = .next (s.errorEntry e) := by
  simp [decodeStep, hin, hout, hroom.not_ge, decoderState, hleft, hfetch]

/-- With no flag bit left, the next flag word is read (R96, R97). -/
theorem decodeStep_of_flagWord {t : State} (hleft : s.dec.left = 0) (hread : readFlagWord s = .ok t) :
    decodeStep s = .next t := by
  simp [decodeStep, hin, hout, hroom.not_ge, decoderState, hleft, hread]

/-- With no flag bit left, a failed read of a flag word ends the command (R96, R97). -/
theorem decodeStep_of_flagOverrun {e : ErrorCause} (hleft : s.dec.left = 0) (hread : readFlagWord s = .error e) :
    decodeStep s = .next (s.errorEntry e) := by
  simp [decodeStep, hin, hout, hroom.not_ge, decoderState, hleft, hread]

end

/-- A DECODE whose regions fit and whose output is full completes (R104). -/
theorem decodeStep_of_fullOutput {s : State} (hin : s.inputFits = true) (hout : s.outputFits = true)
    (hfull : s.dec.n ≤ s.dec.o) : decodeStep s = .next (s.complete s.dec.n) := by
  rw [decodeStep, hin, hout, if_neg nofun, if_pos hfull]

/-- Where the host has nothing to do, a step of a running DECODE is the engine's. -/
theorem step_of_decode {s : State} (hphase : s.phase = .runDecode) (hhost : s.host = []) : step s = decodeStep s := by
  rw [step_of_quiet hhost, engineStep_decode hphase]

/-- A ready DECODE with flag bits left, whose next token cannot be read, ends by the failed read's error. -/
theorem DecodingReady.step_of_overrun {s : State} {e : ErrorCause} (h : DecodingReady s) (hleft : s.dec.left ≠ 0)
    (hfetch : fetchToken s = .error e) : step s = .next (s.errorEntry e) := by
  rw [step_of_decode h.running h.quiet, decodeStep_of_overrun h.input h.output h.room hleft hfetch]

/-- Settles O24: the full output completes the command. -/
theorem decodeCompletesOnFullOutput : Obligations.DecodeCompletesOnFullOutput := by
  intro s hphase hhost hin hout hfull
  rw [step_of_decode hphase hhost, decodeStep_of_fullOutput hin hout hfull.ge]
  rfl

/-- Settles O52: the fetched token is executed. -/
theorem stepRunsTheToken : Obligations.StepRunsTheToken := by
  intro s t i h hleft hfetch
  rw [step_of_decode h.running h.quiet, decodeStep_of_fetched h.input h.output h.room hleft hfetch]

/-! ### Reads of a stream (R94) -/

/-- A read with fewer bytes left than it needs raises its own error (R94). -/
theorem readStream_overrun {st : InStream} {w : Nat} {s : State}
    (h : cursorLimit s.dec (cursorOf s.layout st) < cursorValue s.dec (cursorOf s.layout st) + w) (e : ErrorCause) :
    readStream st w e s = .error e :=
  if_pos h

/-- A read with the bytes it needs left gives their big-endian value and moves the cursor past them (R94). -/
theorem readStream_of_le {st : InStream} {w : Nat} {s : State}
    (h : cursorValue s.dec (cursorOf s.layout st) + w ≤ cursorLimit s.dec (cursorOf s.layout st)) (e : ErrorCause) :
    readStream st w e s =
      .ok (containerField s (cursorValue s.dec (cursorOf s.layout st)) w,
        { s with
          dec := setCursor (cursorOf s.layout st) (cursorValue s.dec (cursorOf s.layout st) + w) s.dec }) :=
  if_neg h.not_gt

/-! ### Flag words and flag bits (R97, R98) -/

/-- Every layout reads its flag words through `fp` (R94). -/
@[simp] theorem cursorOf_f (layout : Layout) : cursorOf layout .f = .fp := by cases layout <;> rfl

/-- FW is 8 bits for each byte of a flag word (R45, R97). -/
theorem State.fw_eq (s : State) : s.fw = 8 * flagBytesOf s.layout := rfl

/-- ReadFlagWord: FW/8 bytes, or MalformedStream 3 where fewer are left (R97). -/
theorem readFlagWord_eq (s : State) :
    readFlagWord s =
      if s.dec.fpLim < s.dec.fp + flagBytesOf s.layout then .error .flagOverrun
      else .ok
        { s with
          dec :=
            { s.dec with
              fp := s.dec.fp + flagBytesOf s.layout
              word := BitVec.ofNat 32 (containerField s s.dec.fp (flagBytesOf s.layout))
              left := s.fw } } := by
  have hbytes : s.fw / 8 = flagBytesOf s.layout := Nat.mul_div_cancel_left _ (by decide)
  rw [readFlagWord, hbytes]
  by_cases hlim : s.dec.fpLim < s.dec.fp + flagBytesOf s.layout
  · rw [if_pos hlim, readStream_overrun (by rwa [cursorOf_f])]
  · rw [if_neg hlim, readStream_of_le (by rw [cursorOf_f]; exact Nat.le_of_not_lt hlim), cursorOf_f]
    rfl

/-- Settles O19: the step is ReadFlagWord, or the completion. -/
theorem flagWordsAreRead : Obligations.FlagWordsAreRead := by
  constructor
  · intro s h hleft w
    refine ⟨?_, ?_⟩
    · dsimp only [w]
      cases s.layout <;> rfl
    · have hread := readFlagWord_eq s
      rw [step_of_decode h.running h.quiet]
      by_cases hlim : s.dec.fpLim < s.dec.fp + w
      · rw [if_pos hlim] at hread ⊢
        exact decodeStep_of_flagOverrun h.input h.output h.room hleft hread
      · rw [if_neg hlim] at hread ⊢
        exact decodeStep_of_flagWord h.input h.output h.room hleft hread
  · intro s hphase hhost hin hout hfull
    exact ⟨_, (step_of_decode hphase hhost).trans (decodeStep_of_fullOutput hin hout hfull), rfl, rfl⟩

/-- A read of a stream leaves the flag word and its bits alone (R94). -/
theorem readStream_keeps_left {st : InStream} {w v : Nat} {e : ErrorCause} {s t : State} {k : Nat} (hk : s.dec.left = k)
    (h : readStream st w e s = .ok (v, t)) : t.dec.left = k := by
  obtain ⟨c, x, rfl⟩ := readStream_ok h
  exact (setCursor_left c x s.dec).trans hk

/-- The fetch consumes one flag bit, and reads a literal exactly where it is 1 (R98). -/
theorem fetchToken_flag {s t : State} {i : Instr} (h : fetchToken s = .ok (i, t)) :
    t.dec.left = s.dec.left - 1 ∧ ((∃ b, i = .lit b) ↔ nextFlag s = true) := by
  unfold fetchToken at h
  split at h
  · rename_i hflag
    unfold fetchLiteral at h
    split at h
    · cases h
    · rename_i hread
      cases h
      exact ⟨readStream_keeps_left rfl hread, iff_of_true ⟨_, rfl⟩ hflag⟩
  · rename_i hflag
    refine ⟨fetchMatch_keeps readStream_keeps_left rfl h, iff_of_false ?_ hflag⟩
    rintro ⟨b, rfl⟩
    cases (fetchMatch_instr h).2

/-- Settles O20: the next bit of a group's token `j` is bit FW-1-j. -/
theorem flagBitsMostSignificantFirst : Obligations.FlagBitsMostSignificantFirst := by
  intro s j i t _ hleft hfetch
  obtain ⟨hconsumed, hlit⟩ := fetchToken_flag hfetch
  rw [nextFlag, hleft, Nat.sub_right_comm] at hlit
  exact ⟨by rw [hconsumed, hleft, Nat.sub_sub], hlit⟩

/-! ### Reads past a stream's end (R99, R100, R101) -/

/-- Consuming a flag bit moves no cursor (R98). -/
@[simp] theorem cursorValue_consumeFlag (s : State) (c : Cursor) :
    cursorValue (consumeFlag s).dec c = cursorValue s.dec c := by cases c <;> rfl

/-- Consuming a flag bit moves no end of a range (R98). -/
@[simp] theorem cursorLimit_consumeFlag (s : State) (c : Cursor) :
    cursorLimit (consumeFlag s).dec c = cursorLimit s.dec c := by cases c <;> rfl

@[simp] theorem consumeFlag_layout (s : State) : (consumeFlag s).layout = s.layout := rfl
@[simp] theorem consumeFlag_coding (s : State) : (consumeFlag s).coding = s.coding := rfl
@[simp] theorem containerField_consumeFlag (s : State) (x w : Nat) :
    containerField (consumeFlag s) x w = containerField s x w := rfl

/-- Where one cursor stands after another was moved depends on where it stood alone. -/
theorem cursorValue_setCursor_congr {d d' : Decoder} (h : ∀ c, cursorValue d c = cursorValue d' c) (c c' : Cursor) (x : Nat) :
    cursorValue (setCursor c x d) c' = cursorValue (setCursor c x d') c' := by
  cases c with
  | fp => cases c' with | fp => rfl | dp => exact h .dp | bp => exact h .bp
  | dp => cases c' with | dp => rfl | fp => exact h .fp | bp => exact h .bp
  | bp => cases c' with | bp => rfl | fp => exact h .fp | dp => exact h .dp

/-- The reading of a match whose nibble calls for nothing more ends with its descriptor (R100). -/
theorem fetchMatch_plain {s t : State} {v : Nat} (hdesc : readStream .d 2 .descriptorOverrun s = .ok (v, t))
    (hextra : extraOf s.coding (descNibble (BitVec.ofNat 16 v)) = .none) :
    fetchMatch s = .ok (matchOf s.coding (BitVec.ofNat 16 v) 0, t) := by
  simp only [fetchMatch, hdesc, hextra]

/-- The reading of a match whose nibble calls for an escape byte ends with that byte of the Y stream (R101). -/
theorem fetchMatch_escape {s t : State} {v : Nat} (hdesc : readStream .d 2 .descriptorOverrun s = .ok (v, t))
    (hextra : extraOf s.coding (descNibble (BitVec.ofNat 16 v)) = .escape) :
    fetchMatch s =
      (readStream .y 1 .extraOverrun t).map fun p => (matchOf s.coding (BitVec.ofNat 16 v) p.1, p.2) := by
  simp only [fetchMatch, hdesc, hextra]
  cases readStream .y 1 .extraOverrun t <;> rfl

/-- The reading of a match whose nibble calls for an extra halfword ends with that halfword of the D stream (R101). -/
theorem fetchMatch_half {s t : State} {v : Nat} (hdesc : readStream .d 2 .descriptorOverrun s = .ok (v, t))
    (hextra : extraOf s.coding (descNibble (BitVec.ofNat 16 v)) = .half) :
    fetchMatch s =
      (readStream .d 2 .extraOverrun t).map fun p => (matchOf s.coding (BitVec.ofNat 16 v) p.1, p.2) := by
  simp only [fetchMatch, hdesc, hextra]
  cases readStream .d 2 .extraOverrun t <;> rfl

/-- Settles O23: the read that fails decides the error. -/
theorem operandReadsAreBounded : Obligations.OperandReadsAreBounded := by
  intro s h hleft y d x nib afterD
  have hdesc (hd : x + 2 ≤ cursorLimit s.dec d) : readStream .d 2 .descriptorOverrun (consumeFlag s) =
      .ok (containerField s x 2, { consumeFlag s with dec := setCursor d (x + 2) (consumeFlag s).dec }) := by
    rw [readStream_of_le (by rwa [consumeFlag_layout, cursorValue_consumeFlag, cursorLimit_consumeFlag]),
      consumeFlag_layout, cursorValue_consumeFlag, containerField_consumeFlag]
  have hmoved (c : Cursor) : cursorValue (setCursor d (x + 2) (consumeFlag s).dec) c = cursorValue afterD c :=
    cursorValue_setCursor_congr (cursorValue_consumeFlag s) d c (x + 2)
  refine ⟨fun hflag hlim => ?_, fun hflag hlim => ?_, fun hflag hd hextra hlim => ?_, fun hflag hd hextra hlim => ?_⟩ <;>
    refine h.step_of_overrun hleft ?_ <;> rw [fetchToken, hflag]
  · rw [if_pos rfl, fetchLiteral, readStream_overrun]
    rwa [consumeFlag_layout, cursorValue_consumeFlag, cursorLimit_consumeFlag]
  · rw [if_neg nofun, fetchMatch, readStream_overrun]
    rwa [consumeFlag_layout, cursorValue_consumeFlag, cursorLimit_consumeFlag]
  · rw [if_neg nofun, fetchMatch_escape (hdesc hd) hextra, readStream_overrun]
    · rfl
    · change cursorLimit (setCursor d (x + 2) (consumeFlag s).dec) y < cursorValue (setCursor d _ (consumeFlag s).dec) y + 1
      rw [cursorLimit_setCursor] at hlim
      rwa [cursorLimit_setCursor, cursorLimit_consumeFlag, hmoved]
  · rw [if_neg nofun, fetchMatch_half (hdesc hd) hextra, readStream_overrun]
    · rfl
    · change cursorLimit (setCursor d (x + 2) (consumeFlag s).dec) d < cursorValue (setCursor d _ (consumeFlag s).dec) d + 2
      rwa [cursorLimit_setCursor, cursorLimit_consumeFlag, cursorValue_setCursor]

/-! ### The next bytes of a cursor (R94) -/

/-- The bytes `b` are next at a cursor, inside its range. -/
structure State.Next (s : State) (c : Cursor) (b : List Byte) : Prop where
  inside : cursorValue s.dec c + b.length ≤ cursorLimit s.dec c
  bytes : ∀ k, k < b.length → s.srcByte (cursorValue s.dec c + k) = b.getD k 0

/-- The state with the cursor past the bytes `b`. -/
def State.skipBytes (s : State) (c : Cursor) (b : List Byte) : State :=
  { s with dec := setCursor c (cursorValue s.dec c + b.length) s.dec }

/-- A cursor moved to where it stands is not moved. -/
@[simp] theorem setCursor_cursorValue (c : Cursor) (d : Decoder) : setCursor c (cursorValue d c) d = d := by cases c <;> rfl

/-- Of two moves of a cursor the second counts. -/
@[simp] theorem setCursor_setCursor (c : Cursor) (x y : Nat) (d : Decoder) :
    setCursor c x (setCursor c y d) = setCursor c x d := by cases c <;> rfl

/-- Moving one cursor leaves the others alone. -/
theorem cursorValue_setCursor_of_ne {c c' : Cursor} (h : c ≠ c') (x : Nat) (d : Decoder) :
    cursorValue (setCursor c x d) c' = cursorValue d c' := by
  cases c <;> cases c' <;> simp [setCursor, cursorValue] at h ⊢

/-- Past no bytes nothing changes. -/
@[simp] theorem State.skipBytes_nil (s : State) (c : Cursor) : s.skipBytes c [] = s := by simp [State.skipBytes]

/-- Past a sequence in two parts. -/
theorem State.skipBytes_append (s : State) (c : Cursor) (a b : List Byte) :
    s.skipBytes c (a ++ b) = (s.skipBytes c a).skipBytes c b := by
  simp [State.skipBytes, Nat.add_assoc]

/-- The bytes of a sequence in two parts are those of the first part, and past it those of the second. -/
theorem State.Next.append {s : State} {c : Cursor} {a b : List Byte} (h : s.Next c (a ++ b)) :
    s.Next c a ∧ (s.skipBytes c a).Next c b := by
  obtain ⟨hinside, hbytes⟩ := h
  rw [List.length_append] at hinside hbytes
  refine ⟨⟨by omega, fun k hk => ?_⟩, ⟨?_, fun k hk => ?_⟩⟩
  · rw [hbytes k (by omega), List.getD_append _ _ _ _ hk]
  · simpa [State.skipBytes, Nat.add_assoc] using hinside
  · have hk' := hbytes (a.length + k) (by omega)
    rw [List.getD_append_right _ _ _ _ (Nat.le_add_right _ _), Nat.add_sub_cancel_left, ← Nat.add_assoc] at hk'
    rw [State.skipBytes, cursorValue_setCursor]
    exact hk'

/-- What is next at a cursor does not depend on the other cursors. -/
theorem State.Next.skipBytes_of_ne {s : State} {c c' : Cursor} {b : List Byte} (h : s.Next c b) (hne : c' ≠ c)
    (a : List Byte) : (s.skipBytes c' a).Next c b := by
  obtain ⟨hinside, hbytes⟩ := h
  refine ⟨?_, fun k hk => ?_⟩
  · rwa [State.skipBytes, cursorValue_setCursor_of_ne hne, cursorLimit_setCursor]
  · rw [State.skipBytes, cursorValue_setCursor_of_ne hne]
    exact hbytes k hk

/-- The value of the next bytes (R7, R94). -/
theorem State.Next.containerField {s : State} {c : Cursor} {b : List Byte} (h : s.Next c b) :
    containerField s (cursorValue s.dec c) b.length = bigEndian b := by
  refine congrArg bigEndian (List.ext_getElem (by simp) fun k hk hk' => ?_)
  rw [List.getElem_map, List.getElem_range, h.bytes k hk', List.getD_eq_getElem _ _ hk']

/-- A read of the next bytes of a stream (R94). -/
theorem State.Next.readStream {s : State} {st : InStream} {b : List Byte} (h : s.Next (cursorOf s.layout st) b)
    (e : ErrorCause) :
    readStream st b.length e s = .ok (bigEndian b, s.skipBytes (cursorOf s.layout st) b) := by
  rw [readStream_of_le h.inside, h.containerField]
  rfl

/-- The value of one byte (R7). -/
@[simp] theorem bigEndian_singleton (b : Byte) : bigEndian [b] = b.toNat := by simp [bigEndian, bigEndianFrom]

/-- A read of one byte (R94). -/
theorem State.Next.readByte {s : State} {st : InStream} {b : Byte} (h : s.Next (cursorOf s.layout st) [b])
    (e : ErrorCause) : Machine.readStream st 1 e s = .ok (b.toNat, s.skipBytes (cursorOf s.layout st) [b]) := by
  rw [← bigEndian_singleton b]
  exact h.readStream e

/-- A read of a halfword (R94). -/
theorem State.Next.readHalf {s : State} {st : InStream} {x : Half} (h : s.Next (cursorOf s.layout st) (be16 x))
    (e : ErrorCause) : Machine.readStream st 2 e s = .ok (x.toNat, s.skipBytes (cursorOf s.layout st) (be16 x)) := by
  rw [← bigEndian_be16 x]
  exact h.readStream e

/-! ### The fetch of a token that is next (R98 to R101) -/

/-- What a match token read from a descriptor is depends on its stream elements alone. -/
theorem matchOf_congr {coding : Coding} {d : Half} {x y : Nat} (h : descriptorCode coding d x = descriptorCode coding d y) :
    matchOf coding d x = matchOf coding d y := by
  have hdecode (z : Nat) := decode_encode_match (matchOf_wf coding d z) (matchOf_coding? coding d z)
  have hx := hdecode x
  rw [encode_matchOf, h, ← encode_matchOf, hdecode y] at hx
  exact (Except.ok.inj hx).symm

/-- A well-formed token of a coding is a literal, or the match of its descriptor, and has its elements (R49 to R52). -/
theorem token_cases {i : Instr} {coding : Coding} (hwf : i.wf = true) (htok : tokenOf i ≠ none)
    (hc : i.coding? = none ∨ i.coding? = some coding) :
    (∃ b, i = .lit b ∧ tokenCode i = literalCode b) ∨
      ∃ d x, i = matchOf coding d x ∧ tokenCode i = descriptorCode coding d x := by
  rcases tokenOf_ne_none_cases htok with ⟨b, rfl⟩ | ⟨coding', hc'⟩
  · exact .inl ⟨b, rfl, rfl⟩
  · have hdecode := decode_encode_match hwf (hc.resolve_left (by simp [hc']))
    cases hencode : encode i with
    | command w =>
      rw [hencode] at hdecode
      exact absurd (tokenOf_of_decodeCommand hdecode) htok
    | token t =>
      rw [hencode] at hdecode
      have hcode : tokenCode i = t := by rw [tokenCode, hencode]
      rcases decodeToken_cases hdecode with ⟨b, rfl, rfl⟩ | ⟨d, x, rfl, rfl⟩
      · exact .inl ⟨b, rfl, rfl⟩
      · exact .inr ⟨d, x, rfl, hcode⟩

/-- A match token whose elements are next is read, whatever its nibble calls for (R100, R101). -/
theorem fetchMatch_of_next {s : State} {d : Half} {x : Nat} {t : TokenCode} (ht : t = descriptorCode s.coding d x)
    (hd : s.Next (cursorOf s.layout .d) (t.dict.flatMap be16))
    (hy : (s.skipBytes (cursorOf s.layout .d) (t.dict.flatMap be16)).Next (cursorOf s.layout .y) t.bytes) :
    fetchMatch s =
      .ok (matchOf s.coding d x,
        (s.skipBytes (cursorOf s.layout .d) (t.dict.flatMap be16)).skipBytes (cursorOf s.layout .y) t.bytes) := by
  subst ht
  have hself : BitVec.ofNat 16 d.toNat = d := by simp
  cases hextra : extraOf s.coding (descNibble d) with
  | none =>
    have hcode (x : Nat) : descriptorCode s.coding d x = matchCode [d] [] := by rw [descriptorCode, hextra]
    simp only [hcode, matchCode, List.flatMap_singleton, State.skipBytes_nil] at hd ⊢
    rw [fetchMatch_plain (hd.readHalf _) (by rwa [hself]), hself, matchOf_congr ((hcode 0).trans (hcode x).symm)]
  | escape =>
    have hcode (x : Nat) : descriptorCode s.coding d x = matchCode [d] [BitVec.ofNat 8 x] := by
      rw [descriptorCode, hextra]
    simp only [hcode, matchCode, List.flatMap_singleton] at hd hy ⊢
    have hread := hy.readByte (s := s.skipBytes (cursorOf s.layout .d) (be16 d)) (st := .y) .extraOverrun
    rw [fetchMatch_escape (hd.readHalf _) (by rwa [hself]), hself, hread, Except.map,
      matchOf_congr (y := x) (by rw [hcode, hcode, BitVec.ofNat_toNat, BitVec.setWidth_eq])]
    rfl
  | half =>
    have hcode (x : Nat) : descriptorCode s.coding d x = matchCode [d, BitVec.ofNat 16 x] [] := by
      rw [descriptorCode, hextra]
    simp only [hcode, matchCode, List.flatMap_cons, List.flatMap_nil, List.append_nil, State.skipBytes_nil,
      State.skipBytes_append] at hd ⊢
    have hread := hd.append.2.readHalf (s := s.skipBytes (cursorOf s.layout .d) (be16 d)) (st := .d) .extraOverrun
    rw [fetchMatch_half (hd.append.1.readHalf _) (by rwa [hself]), hself, hread, Except.map,
      matchOf_congr (y := x) (by rw [hcode, hcode, BitVec.ofNat_toNat, BitVec.setWidth_eq])]
    rfl

/-- The fetch of a token whose flag bit is next, with its entries next in the D stream and its bytes then next in the Y
stream: it reads that token and consumes exactly those (R98 to R101). -/
theorem fetchToken_of_next {s : State} {i : Instr} (hwf : i.wf = true) (htok : tokenOf i ≠ none)
    (hc : i.coding? = none ∨ i.coding? = some s.coding) (hflag : nextFlag s = (tokenCode i).flag)
    (hd : (consumeFlag s).Next (cursorOf s.layout .d) ((tokenCode i).dict.flatMap be16))
    (hy : ((consumeFlag s).skipBytes (cursorOf s.layout .d) ((tokenCode i).dict.flatMap be16)).Next (cursorOf s.layout .y)
      (tokenCode i).bytes) :
    fetchToken s =
      .ok (i, ((consumeFlag s).skipBytes (cursorOf s.layout .d) ((tokenCode i).dict.flatMap be16)).skipBytes
        (cursorOf s.layout .y) (tokenCode i).bytes) := by
  rw [fetchToken, hflag]
  rcases token_cases hwf htok hc with ⟨b, rfl, hcode⟩ | ⟨d, x, rfl, hcode⟩
  · rw [hcode] at hy ⊢
    simp only [literalCode, List.flatMap_nil, State.skipBytes_nil] at hy ⊢
    have hread := hy.readByte (s := consumeFlag s) (st := .y) .literalOverrun
    simp only [if_pos, fetchLiteral, hread, consumeFlag_layout, BitVec.ofNat_toNat, BitVec.setWidth_eq]
  · have hmatch : (tokenCode (matchOf s.coding d x)).flag = false := by
      rw [hcode, descriptorCode]
      split <;> rfl
    rw [hmatch, if_neg nofun]
    exact fetchMatch_of_next (s := consumeFlag s) hcode hd hy

/-- A token's inline bytes are its entries and then its bytes, since none has both a second entry and a byte (R56). -/
theorem inlineBytes_tokenCode (i : Instr) :
    inlineBytes (tokenCode i) = (tokenCode i).dict.flatMap be16 ++ (tokenCode i).bytes := by
  cases i <;> simp [tokenCode, encode, literalCode, matchCode, inlineBytes]

/-- Settles O21: in the Stream layout a token's entries and bytes are next in one stream, one after the other. -/
theorem fetchReadsStreamTokens : Obligations.FetchReadsStreamTokens := by
  intro s i hlayout hwf htok hc hflag b hlim hbytes
  have hnext : (consumeFlag s).Next .fp ((tokenCode i).dict.flatMap be16 ++ (tokenCode i).bytes) :=
    inlineBytes_tokenCode i ▸ ⟨hlim, hbytes⟩
  obtain ⟨hcd, hcy⟩ : cursorOf s.layout .d = .fp ∧ cursorOf s.layout .y = .fp := by rw [hlayout]; exact ⟨rfl, rfl⟩
  have hfetch := fetchToken_of_next hwf htok hc hflag (by rw [hcd]; exact hnext.append.1)
    (by rw [hcd, hcy]; exact hnext.append.2)
  rw [hcd, hcy, ← State.skipBytes_append, ← inlineBytes_tokenCode] at hfetch
  refine ⟨hfetch, ?_⟩
  cases i with
  | lit | matchMio | matchYayS | matchYayL | matchRvlS | matchRvlM | matchRvlL => rfl
  | _ => exact absurd rfl htok

/-- The decoder past a flag bit, bytes of the D stream and bytes of a Y stream of its own (R94). -/
theorem skipBytes_bp {c : Cursor} (hne : c ≠ .bp) (s : State) (d y : List Byte) :
    ((consumeFlag s).skipBytes c d).skipBytes .bp y =
      { s with
        dec :=
          { setCursor c (cursorValue s.dec c + d.length) s.dec with
            left := s.dec.left - 1, bp := s.dec.bp + y.length } } := by
  cases c with
  | bp => exact absurd rfl hne
  | fp => rfl
  | dp => rfl

/-- Settles O22: in the other layouts a token's entries and bytes are next in a stream each. -/
theorem fetchReadsSeparateStreams : Obligations.FetchReadsSeparateStreams := by
  intro s i hlayout hwf htok hc hflag d y cd x hlimD hd hlimY hy
  have hcursors : cursorOf s.layout .d = cd ∧ cursorOf s.layout .y = .bp ∧ cd ≠ .bp := by
    dsimp only [cd]
    cases hl : s.layout with
    | stream => exact absurd hl hlayout
    | tables => exact ⟨rfl, rfl, nofun⟩
    | groups => exact ⟨rfl, rfl, nofun⟩
  obtain ⟨hcd, hcy, hne⟩ := hcursors
  have hnextD : (consumeFlag s).Next cd d := by
    refine ⟨?_, ?_⟩
    · rwa [cursorValue_consumeFlag, cursorLimit_consumeFlag]
    · rwa [cursorValue_consumeFlag]
  have hnextY : (consumeFlag s).Next .bp y := ⟨hlimY, hy⟩
  have hfetch := fetchToken_of_next hwf htok hc hflag (hcd.symm ▸ hnextD)
    (by rw [hcd, hcy]; exact hnextY.skipBytes_of_ne hne d)
  rw [hfetch, hcd, hcy, skipBytes_bp hne]

end Sys2Proof.Machine

namespace Sys2Proof.Machine

/-! ### The start of a command that passes the start checks (R108, R111) -/

section
variable {s : State} (hregions : RegionsStart s)
include hregions

/-- START_CHECKS passes for a legal word and legal regions (R111). -/
theorem RegionsStart.startChecks {w : Word} (hop : (cmdOp w).toNat < 3) (hreserved : cmdReserved w = 0)
    (hvariant : (cmdVariant w).toNat < 5) : (s.beginCommand w).startChecks w = none := by
  obtain ⟨hnonempty, hbounded, hinput, houtput, hapart⟩ := hregions
  have hin : regionLegal s.srcAddr s.srcLen = true := (regionLegal_iff _ _).2 hinput
  have hout : regionLegal s.dstAddr s.dstCap = true := (regionLegal_iff _ _).2 houtput
  have hshare : ¬regionsShare s.srcAddr s.srcLen s.dstAddr s.dstCap = true := by
    simp only [regionsShare, Bool.and_eq_true, decide_eq_true_eq]
    omega
  rw [State.startChecks, if_neg hop.not_ge, if_neg (not_not.2 hreserved), if_neg hvariant.not_ge]
  change (if regionLegal s.srcAddr s.srcLen = false then _ else if regionLegal s.dstAddr s.dstCap = false then _
    else if regionsShare s.srcAddr s.srcLen s.dstAddr s.dstCap = true then _
    else if s.srcLen.toNat = 0 ∨ Config.sizeMax < s.srcLen.toNat then _ else _) = _
  rw [hin, hout, if_neg nofun, if_neg nofun, if_neg hshare, if_neg (by omega)]

end

/-- The registry code of a variant is not reserved (R45). -/
theorem codeOfVariant_lt (v : Variant) : (codeOfVariant v).toNat < 5 := by cases v <;> decide

/-- The command word of an OP and a variant latches that variant (R108). -/
@[simp] theorem beginCommand_commandWord_variant (s : State) (op : Nibble) (v : Variant) :
    (s.beginCommand (commandWord op (codeOfVariant v))).variant = v := by
  simp [State.beginCommand]

/-- A DECODE that passes the start checks starts (R108, R113). -/
theorem RegionsStart.writeCmd_decode {s : State} (h : RegionsStart s) (hb : s.busy = false) (v : Variant) :
    s.writeCmd (commandWord 2 (codeOfVariant v)) = (s.beginCommand (commandWord 2 (codeOfVariant v))).startDecode := by
  have hchecks : (s.beginCommand (commandWord 2 (codeOfVariant v))).startChecks (commandWord 2 (codeOfVariant v)) = none :=
    h.startChecks (by simp) (by simp) (by simpa using codeOfVariant_lt v)
  rw [State.writeCmd, hb, if_neg nofun, if_neg (by simp), State.checkAndStart, hchecks]
  exact if_neg (by simp)

/-- An ENCODE that passes the start checks starts (R108, R112). -/
theorem RegionsStart.writeCmd_encode {s : State} (h : RegionsStart s) (hb : s.busy = false) (v : Variant) :
    s.writeCmd (commandWord 1 (codeOfVariant v)) = (s.beginCommand (commandWord 1 (codeOfVariant v))).startEncode := by
  have hchecks : (s.beginCommand (commandWord 1 (codeOfVariant v))).startChecks (commandWord 1 (codeOfVariant v)) = none :=
    h.startChecks (by simp) (by simp) (by simpa using codeOfVariant_lt v)
  rw [State.writeCmd, hb, if_neg nofun, if_neg (by simp), State.checkAndStart, hchecks]
  exact if_pos (by simp)

/-- A DECODE command's meaning is the write of its word to CMD (R46, R108). -/
theorem exec_decodeOf (v : Variant) (s : State) :
    exec (.decodeOf v) s = .next (s.writeCmd (commandWord 2 (codeOfVariant v))) := by
  cases v <;> rfl

/-! ### DECODE_HEADER (R93) -/

/-- The aux offsets' order, for the layouts that use them (R93). -/
theorem auxLegal_iff (layout : Layout) (a1 a2 len : Nat) :
    auxLegal layout a1 a2 len = true ↔
      (layout = .tables → 16 ≤ a1 ∧ a1 ≤ a2 ∧ a2 ≤ len) ∧ (layout = .groups → 16 ≤ a2 ∧ a2 ≤ len) := by
  rw [show 16 = Config.hdrLen from rfl]
  cases layout <;> simp [auxLegal, and_assoc]

/-- DECODE_HEADER's checks on the container the input registers name (R93). -/
theorem headerChecks_beginCommand (v : Variant) (s : State) :
    headerChecks { s.beginCommand (commandWord 2 (codeOfVariant v)) with phase := .runDecode } =
      if s.srcLen.toNat < 16 then .error .shortContainer
      else if inputField s 0 ≠ (magicOf v).toNat then .error .badMagic
      else if inputSizeField v s = 0 ∨ 0x3FFFFFFF < inputSizeField v s then .error .decodedSize
      else if auxLegal (layoutOf v) (inputField s 8) (inputField s 12) s.srcLen.toNat = false then .error .badAuxOffset
      else if s.dstCap.toNat < inputSizeField v s then .error .decodedTooBig
      else .ok (inputSizeField v s) := by
  unfold headerChecks State.layout
  rw [beginCommand_commandWord_variant]
  rfl

/-- A header that fails a check ends the command by it (R93, R122). -/
theorem startDecode_of_error {s : State} {e : ErrorCause} (h : headerChecks { s with phase := .runDecode } = .error e) :
    s.startDecode = s.errorEntry e := by
  simp only [State.startDecode, h]
  rfl

/-- Settles O11: the header's checks are made in this order, and each ends the command. -/
theorem headerChecksInOrder : Obligations.HeaderChecksInOrder := by
  intro v s hb hregions ends n
  have hends {e : ErrorCause}
      (he : headerChecks { s.beginCommand (commandWord 2 (codeOfVariant v)) with phase := .runDecode } = .error e) : ends e := by
    dsimp only [ends]
    rw [exec_decodeOf, hregions.writeCmd_decode hb, startDecode_of_error he]
  rw [headerChecks_beginCommand] at hends
  split
  · exact hends (if_pos ‹_›)
  rename_i hlen
  rw [if_neg hlen] at hends
  split
  · exact hends (if_pos ‹_›)
  rename_i hmagic
  rw [if_neg hmagic] at hends
  split
  · exact hends (if_pos ‹_›)
  rename_i hsize
  rw [if_neg hsize] at hends
  have haux := auxLegal_iff (layoutOf v) (inputField s 8) (inputField s 12) s.srcLen.toNat
  split
  · rename_i htables
    exact hends (if_pos (Bool.eq_false_iff.2 fun h => htables.2 ((haux.1 h).1 htables.1)))
  rename_i htables
  split
  · rename_i hgroups
    exact hends (if_pos (Bool.eq_false_iff.2 fun h => hgroups.2 ((haux.1 h).2 hgroups.1)))
  rename_i hgroups
  have htables' := fun hl => not_not.1 fun h => htables ⟨hl, h⟩
  have hgroups' := fun hl => not_not.1 fun h => hgroups ⟨hl, h⟩
  rw [haux.2 ⟨htables', hgroups'⟩, if_neg nofun] at hends
  split
  · exact hends (if_pos ‹_›)
  rename_i hcap
  exact {
    whole := Nat.le_of_not_lt hlen
    magic := not_not.1 hmagic
    nonempty := Nat.pos_of_ne_zero fun h => hsize (.inl h)
    bounded := Nat.le_of_not_lt fun h => hsize (.inr h)
    tables := htables'
    groups := hgroups'
    fits := Nat.le_of_not_lt hcap }

end Sys2Proof.Machine

namespace Sys2Proof.Machine

/-! ### Errors are precise (R107, R123) -/

/-- A fetched instruction is a token (R96). -/
theorem tokenOf_of_fetchToken {s t : State} {i : Instr} (h : fetchToken s = .ok (i, t)) : tokenOf i ≠ none := by
  rcases fetchToken_instr h with ⟨b, rfl⟩ | ⟨-, hc⟩
  · nofun
  · cases i with
    | matchMio | matchYayS | matchYayL | matchRvlS | matchRvlM | matchRvlL => nofun
    | _ => cases hc

/-- STATUS with BUSY alone shows no error (R10). -/
theorem err_of_statusBusy {s : State} (h : s.status = statusBusy) : s.err = false := by
  rw [State.err, h]
  rfl

/-- STATUS after an error is its code above ERR (R122). -/
theorem ErrorCause.status_eq (e : ErrorCause) : e.status = BitVec.ofNat 32 (e.code * 256 + 4) := by cases e <;> rfl

/-- A step of a DECODE that shows an error is an error entry from a state that differs from the one before in the decoder
alone (R107, R123). -/
theorem decodeStep_err {s t : State} (hbusy : s.status = statusBusy) (hstep : decodeStep s = .next t)
    (herr : t.err = true) : ∃ e d, t = ({ s with dec := d } : State).errorEntry e := by
  have hrunning {u : State} (hu : u.status = s.status) : ¬u.err = true := by
    rw [err_of_statusBusy (hu.trans hbusy)]
    nofun
  rcases decodeStep_cases s with ⟨-, hstop⟩ | ⟨-, ⟨-, hdone⟩ | ⟨-, -, ⟨e, -, he⟩ | ⟨u, hread, hok⟩⟩ |
    ⟨-, -, ⟨e, -, he⟩ | ⟨i, u, hfetch, hexec⟩⟩⟩
  · cases hstop.symm.trans hstep
  · cases hdone.symm.trans hstep
    exact absurd herr (by rw [State.err, State.complete_status]; decide)
  · cases he.symm.trans hstep
    exact ⟨e, s.dec, rfl⟩
  · cases hok.symm.trans hstep
    obtain ⟨d, rfl⟩ := readFlagWord_ok hread
    exact absurd herr (hrunning rfl)
  · cases he.symm.trans hstep
    exact ⟨e, s.dec, rfl⟩
  · obtain ⟨d, rfl⟩ := fetchToken_ok hfetch
    rcases (exec_token_cases (tokenOf_of_fetchToken hfetch) (hexec.symm.trans hstep)).2 with
      ⟨b, rfl⟩ | ⟨e, rfl⟩ | ⟨n, off, -, -, rfl⟩
    · exact absurd herr (hrunning rfl)
    · exact ⟨e, d, rfl⟩
    · exact absurd herr (hrunning rfl)

/-- Where a round raises does not depend on the match finder's state (R65). -/
theorem roundRaises_withFinder (seed : List Byte) (skip : List Nat) : ∀ (ts : List Token) (s : State),
    roundRaises { s with seed := seed, skip := skip } ts = roundRaises s ts
  | [], _ => rfl
  | t :: ts, s => by
    have hrest := roundRaises_withFinder seed skip ts (afterToken s t)
    rw [roundRaises, roundRaises, ← hrest]
    rfl

/-- The FINDs of a round do not change where it raises (R65). -/
theorem roundRaises_noteFinds (s : State) (ts : List Token) : roundRaises s.noteFinds ts = roundRaises s ts := by
  rw [State.noteFinds_eq, roundRaises_withFinder]

/-- A step of a running ENCODE with source bytes left is a round (R76). -/
theorem step_of_sourceLeft {s : State} (hphase : s.phase = .runEncode) (hhost : s.host = [])
    (hlegal : s.regionsLegal = true) (hc : s.enc.c < s.latSrcLen.toNat) :
    step s = .next (settle (emitTokens s.nextTokens s.noteFinds)) := by
  rw [step_of_quiet hhost, engineStep_encode hphase, encodeStep, hlegal, if_neg nofun, if_pos hc, encodeRound]

/-- An error raised after some tokens of an ENCODE's step, in the middle of the next, ends it with their counts (R122,
R123). -/
theorem encodeEndedBy_errorEntry {s u : State} {seed : List Byte} {skip : List Nat} {completed : List Token}
    (hsame : SameButStreams (completed.foldl afterToken { s with seed := seed, skip := skip }) u) (e : ErrorCause) :
    EncodeEndedBy e completed s (u.errorEntry e) := by
  rw [foldl_afterToken] at hsame
  obtain ⟨_, _, _, _, rfl⟩ := hsame
  exact ⟨⟨e.status_eq, rfl, rfl⟩, rfl, ⟨rfl, rfl, rfl⟩, rfl, rfl, rfl⟩

/-- Settles O25: an error of a DECODE's step is raised before a token is put, and one of an ENCODE's step by the first
append that does not fit. -/
theorem decodeErrorsArePrecise : Obligations.DecodeErrorsArePrecise := by
  refine ⟨fun s t hphase hstatus hstep herr => ?decode, fun s hphase hhost hlegal henc hc => ⟨?raises, ?completes⟩,
    fun s hphase hhost hlegal hc hpartial hfull => ?finish⟩
  case decode =>
    have hbusy := (hstatus.running (by simp [hphase])).1
    obtain ⟨e, d, rfl⟩ := decodeStep_err hbusy ((engineStep_decode hphase).symm.trans hstep) herr
    exact ⟨rfl, rfl, rfl, rfl, rfl⟩
  case raises =>
    intro e completed hraises
    obtain ⟨-, hdict, hbytes⟩ := henc.capacities
    obtain ⟨u, hu, hsame⟩ := emitTokens_raises (s := s.noteFinds) (by rw [State.noteFinds_eq]; exact hdict)
      (by rw [State.noteFinds_eq]; exact hbytes) ((roundRaises_noteFinds s _).trans hraises)
    refine ⟨u.errorEntry e, by rw [step_of_sourceLeft hphase hhost hlegal hc, hu, settle], ?_⟩
    rw [State.noteFinds_eq] at hsame
    exact encodeEndedBy_errorEntry hsame e
  case completes =>
    intro hfits
    refine ⟨s.nextTokens.foldl afterToken s.noteFinds, ?_, ?_⟩
    · rw [step_of_sourceLeft hphase hhost hlegal hc, emitTokens_fits ((roundRaises_noteFinds s _).trans hfits), settle]
    · rw [State.noteFinds_eq, foldl_afterToken]
      exact ⟨hphase, rfl⟩
  case finish =>
    have hfin : finishEncode s = .error (.flagsFull, s) := by
      rw [finishEncode, finishFlags_eq, if_pos hpartial, if_neg (Nat.not_lt.2 hfull)]
    refine ⟨s.errorEntry .flagsFull, by rw [step_of_sourceEncoded hphase hhost hlegal hc, hfin, settle], ?_⟩
    exact encodeEndedBy_errorEntry (completed := []) (seed := s.seed) (skip := s.skip) (.refl s) _

end Sys2Proof.Machine

namespace Sys2Proof.Machine

/-! ### What the tokens of a source say of it (R83, R106) -/

/-- A token says of the source at a cursor what is there: a literal its byte, and a match that the bytes from the cursor on
equal those its distance back, with a length and a distance that the coding can encode (R83). -/
def Token.Describes (src : Nat → Byte) (maxLen c : Nat) : Token → Prop
  | .literal b => b = src c
  | .copy n d => (3 ≤ n ∧ n ≤ maxLen) ∧ (1 ≤ d ∧ d ≤ c ∧ d ≤ 4096) ∧ Agrees src (c - d) c n

/-- A token sequence describes the source from a cursor on, each token where the ones before it end. -/
def Describes (src : Nat → Byte) (maxLen : Nat) : Nat → List Token → Prop
  | _, [] => True
  | c, t :: ts => t.Describes src maxLen c ∧ Describes src maxLen (c + t.span) ts

section
variable {src : Nat → Byte} {maxLen : Nat}

/-- A sequence in two parts describes the source part by part. -/
theorem describes_append (ts us : List Token) (c : Nat) :
    Describes src maxLen c (ts ++ us) ↔ Describes src maxLen c ts ∧ Describes src maxLen (c + spanOf ts) us := by
  induction ts generalizing c with
  | nil => simp [Describes, spanOf]
  | cons t ts ih => simp only [List.cons_append, Describes, ih, spanOf, and_assoc, Nat.add_assoc]

/-- What FIND returns, clamped to MAXLEN, describes the source (R65, R72, R78). -/
theorem describes_find {len c : Nat} (hmax : 17 ≤ maxLen) (hc : c ≤ len) (tie : MfTie)
    (hfound : 3 ≤ (find src len maxLen tie c).len) :
    (Token.copy (min (find src len maxLen tie c).len maxLen) (find src len maxLen tie c).dist).Describes src maxLen c := by
  rcases (findStaysInsideTheSource src src len maxLen c tie hmax hc fun _ _ => rfl).2 with
    hnone | ⟨hdist, hwindow, -, -, hagrees⟩
  · rw [hnone] at hfound
    cases hfound
  · have hagrees' : Agrees src (c - (find src len maxLen tie c).dist) c (find src len maxLen tie c).len := hagrees
    exact ⟨by omega, by omega, hagrees'.mono (Nat.min_le_left _ _)⟩

/-- The tokens of a round describe the source at the cursor (R76, R77, R78). -/
theorem describes_decideTokens {len c : Nat} (hmax : 17 ≤ maxLen) (hc : c < len) (tie : MfTie) :
    Describes src maxLen c (decideTokens src (find src len maxLen tie) maxLen c) := by
  unfold decideTokens
  dsimp only
  split
  · exact ⟨rfl, trivial⟩
  · rename_i hhere
    rw [Config.minMatch] at hhere
    split
    · exact ⟨rfl, describes_find (c := c + 1) hmax hc tie (by omega), trivial⟩
    · exact ⟨describes_find hmax hc.le tie (by omega), trivial⟩

/-- The tokens from a cursor on describe the source (R76, R84). -/
theorem describes_tokensFrom {len : Nat} (hmax : 17 ≤ maxLen) (tie : MfTie) :
    ∀ fuel c : Nat, Describes src maxLen c (tokensFrom src len maxLen tie fuel c)
  | 0, _ => trivial
  | fuel + 1, c => by
    rw [tokensFrom]
    split
    · exact (describes_append _ _ _).2 ⟨describes_decideTokens hmax ‹_› tie, describes_tokensFrom hmax tie fuel _⟩
    · trivial

/-- The first bytes of a source, one more. -/
theorem sourceBytes_succ (src : Nat → Byte) (c : Nat) : sourceBytes src (c + 1) = sourceBytes src c ++ [src c] := by
  simp [sourceBytes, List.range_succ]

/-- A copy that repeats the source's own bytes extends them (R103). -/
theorem expandCopy_sourceBytes {d : Nat} (hd : 1 ≤ d) : ∀ {n c : Nat}, d ≤ c → Agrees src (c - d) c n →
    expandCopy (sourceBytes src c) d n = sourceBytes src (c + n)
  | 0, _, _, _ => rfl
  | n + 1, c, hc, hagrees => by
    obtain ⟨hbyte, hrest⟩ := agrees_succ.1 hagrees
    have hback : (sourceBytes src c).getD ((sourceBytes src c).length - d) 0 = src c := by
      have hlen : c - d < c := by omega
      simp [sourceBytes, hlen, hbyte]
    rw [expandCopy, hback, ← sourceBytes_succ, expandCopy_sourceBytes hd (by omega), Nat.succ_add_eq_add_succ]
    rwa [Nat.succ_sub hc]

/-- Tokens that describe the source expand to it (R99, R103, R106). -/
theorem expandFrom_of_describes {ts : List Token} {c : Nat} (h : Describes src maxLen c ts) :
    expandFrom (sourceBytes src c) ts = sourceBytes src (c + spanOf ts) := by
  induction ts generalizing c with
  | nil => rfl
  | cons t ts ih =>
    obtain ⟨ht, hts⟩ := h
    rw [spanOf, ← Nat.add_assoc, ← ih hts]
    cases t with
    | literal b =>
      obtain rfl : b = src c := ht
      rw [expandFrom, ← sourceBytes_succ]
      rfl
    | copy n d =>
      obtain ⟨-, ⟨hd, hdc, -⟩, hagrees⟩ := ht
      rw [expandFrom, expandCopy_sourceBytes hd hdc hagrees]
      rfl

end

/-- The tokens of a source cover all of it (R83). -/
theorem spanOf_sourceTokens (src : Nat → Byte) (len : Nat) {maxLen : Nat} (hmax : 2 ≤ maxLen) (tie : MfTie) :
    spanOf (sourceTokens src len maxLen tie) = len :=
  spanOf_tokensFrom src hmax tie le_rfl

/-- The tokens of a source describe it (R84, R106). -/
theorem describes_sourceTokens (src : Nat → Byte) (len : Nat) {maxLen : Nat} (hmax : 17 ≤ maxLen) (tie : MfTie) :
    Describes src maxLen 0 (sourceTokens src len maxLen tie) := describes_tokensFrom hmax tie len 0

/-- Settles O36: the tokens describe the source from its first byte on, and cover all of it. -/
theorem tokensExpandToTheSource : Obligations.TokensExpandToTheSource := by
  intro src len maxLen tie hmax
  have hexpand := expandFrom_of_describes (describes_sourceTokens src len hmax tie)
  rwa [spanOf_sourceTokens src len (by omega) tie, Nat.zero_add] at hexpand

end Sys2Proof.Machine

namespace Sys2Proof.Machine

/-! ### The engine alone (R115) -/

/-- The engine alone does nothing once the command has ended. -/
theorem runEngine_idle {s : State} (h : s.phase = .idle) (fuel : Nat) : runEngine fuel s = s := by
  cases fuel with
  | zero => rfl
  | succ fuel => simp [runEngine, h]

/-- The engine alone goes on from the state its step leaves. -/
theorem runEngine_succ {s t : State} (hp : s.phase ≠ .idle) (hstep : engineStep s = .next t) (fuel : Nat) :
    runEngine (fuel + 1) s = runEngine fuel t := by
  cases hphase : s.phase with
  | idle => exact absurd hphase hp
  | runEncode => simp [runEngine, hphase, hstep]
  | runDecode => simp [runEngine, hphase, hstep]

/-- The engine alone keeps the invariant. -/
theorem Inv.runEngine : ∀ (fuel : Nat) {s : State}, Inv s → Inv (runEngine fuel s)
  | 0, _, h => h
  | fuel + 1, s, h => by
    by_cases hp : s.phase = .idle
    · rwa [runEngine_idle hp]
    · obtain ⟨t, hstep⟩ := h.engineInRegions.engineStep_next
      rw [runEngine_succ hp hstep]
      exact (h.engineStep hstep).runEngine fuel

/-- A command keeps the invariant, from its CMD write to its end. -/
theorem Inv.runCommand {s : State} (h : Inv s) (w : Word) : Inv (s.runCommand w) := (h.writeCmd w).runEngine _

/-! ### An ENCODE that completes (R112) -/

/-- No error leaves STATUS with DONE alone (R122). -/
theorem ErrorCause.status_ne_statusDone (e : ErrorCause) : e.status ≠ statusDone := by cases e <;> decide

/-- A flag word with a token's bit in its place: 1 for a literal, 0 for a match (R49). -/
def withFlag (fw : Nat) (acc : Word) (n : Nat) : Token → Word
  | .literal _ => acc ||| flagMask fw n
  | .copy _ _ => acc

/-- FLAGBIT puts a token's bit in its place, and flushes a full word (R81). -/
theorem recordFlag_eq (fw : Nat) (flags : List Word) (acc : Word) (n : Nat) (t : Token) :
    recordFlag fw (flags, acc, n) t =
      if n + 1 = fw then (flags ++ [withFlag fw acc n t], 0, 0) else (flags, withFlag fw acc n t, n + 1) := by
  cases t <;> rfl

/-- The flag words of a sequence take its first token's bit first (R49, R81). -/
theorem flagWordsFrom_cons (fw : Nat) (acc : Word) (n : Nat) (t : Token) (ts : List Token) :
    flagWordsFrom fw acc n (t :: ts) =
      if n + 1 = fw then withFlag fw acc n t :: flagWordsFrom fw 0 0 ts
      else flagWordsFrom fw (withFlag fw acc n t) (n + 1) ts := by
  cases t <;> rfl

/-- The flag words of a token sequence are those FLAGBIT flushes, and the partial word it leaves (R81, R82). -/
theorem foldl_recordFlag {fw : Nat} (ts : List Token) {flags : List Word} {acc : Word} {n : Nat} :
    let f := ts.foldl (recordFlag fw) (flags, acc, n)
    f.1 ++ (if 0 < f.2.2 then [f.2.1] else []) = flags ++ flagWordsFrom fw acc n ts := by
  induction ts generalizing flags acc n with
  | nil =>
    rcases Nat.eq_zero_or_pos n with rfl | hn
    · simp [flagWordsFrom]
    · simp [flagWordsFrom, hn, hn.ne']
  | cons t ts ih =>
    rw [List.foldl_cons, recordFlag_eq, flagWordsFrom_cons]
    split
    · exact ih.trans (by rw [List.append_assoc, List.singleton_append])
    · exact ih

/-- A state with another state of the match finder (R23). -/
def State.withFinder (seed : List Byte) (skip : List Nat) (s : State) : State := { s with seed := seed, skip := skip }

/-- Tokens leave the match finder's state alone and take nothing from it (R65). -/
theorem foldl_afterToken_State_withFinder (ts : List Token) (s : State) (seed : List Byte) (skip : List Nat) :
    ts.foldl afterToken (s.withFinder seed skip) = (ts.foldl afterToken s).withFinder seed skip :=
  foldl_afterToken_withFinder ts s seed skip

/-- A running ENCODE whose tokens `ts` have been emitted (R76), apart from the match finder's state. -/
def EncodedFrom (s : State) (ts : List Token) (u : State) : Prop :=
  ∃ seed skip, u = (ts.foldl afterToken s).withFinder seed skip

/-- The tokens of a round, emitted (R76). -/
theorem encodedFrom_noteFinds (s : State) (ts : List Token) : EncodedFrom s ts (ts.foldl afterToken s.noteFinds) :=
  ⟨s.noteFinds.seed, s.noteFinds.skip, by
    rw [← foldl_afterToken_State_withFinder, State.withFinder, ← State.noteFinds_eq]⟩

/-- Tokens emitted after others (R76). -/
theorem EncodedFrom.append {s t u : State} {ts us : List Token} (h : EncodedFrom s ts t) (h' : EncodedFrom t us u) :
    EncodedFrom s (ts ++ us) u := by
  obtain ⟨_, _, rfl⟩ := h
  obtain ⟨seed, skip, rfl⟩ := h'
  exact ⟨seed, skip, by rw [foldl_afterToken_State_withFinder, List.foldl_append]; rfl⟩

/-- Emitted tokens move the cursor past them, and leave alone what FIND depends on (R76). -/
theorem EncodedFrom.fields {s u : State} {ts : List Token} (h : EncodedFrom s ts u) :
    u.srcByte = s.srcByte ∧ u.latSrcLen = s.latSrcLen ∧ u.maxLen = s.maxLen ∧ u.params = s.params ∧ u.phase = s.phase ∧
      u.enc.c = s.enc.c + spanOf ts := by
  obtain ⟨_, _, rfl⟩ := h
  rw [foldl_afterToken]
  exact ⟨rfl, rfl, rfl, rfl, rfl, rfl⟩

/-- The engine's last step of an ENCODE that completes (R82, R86, R90, R112). -/
def CompletesFrom (u w : State) : Prop :=
  ∃ t, finishFlags u = .ok t ∧ t.containerSize ≤ t.latDstCap.toNat ∧
    w = (t.writeOutput t.container).release.complete t.containerSize

/-- With the source encoded, an ENCODE that completes does so in its next step. -/
theorem completesFrom_of_sourceEncoded {s : State} (hp : s.phase = .runEncode) (hlegal : s.regionsLegal = true)
    (hc : s.latSrcLen.toNat ≤ s.enc.c) {fuel : Nat} (hdone : (runEngine (fuel + 1) s).status = statusDone) :
    CompletesFrom s (runEngine (fuel + 1) s) := by
  have hstep : engineStep s = .next (settle (finishEncode s)) := by
    rw [engineStep_encode hp, encodeStep, hlegal, if_neg nofun, if_neg hc.not_gt]
  rw [runEngine_succ (by simp [hp]) hstep] at hdone ⊢
  have herror (e : ErrorCause) (t : State) : (runEngine fuel (t.errorEntry e)).status ≠ statusDone := by
    rw [runEngine_idle rfl]
    exact e.status_ne_statusDone
  rcases finishFlags_cases s with hraise | ⟨t, hok, -⟩
  · rw [finishEncode, hraise] at hdone
    exact absurd hdone (herror _ _)
  · rw [finishEncode_of_finishFlags hok] at hdone ⊢
    by_cases hfits : t.latDstCap.toNat < t.containerSize
    · rw [if_pos hfits] at hdone
      exact absurd hdone (herror _ _)
    · rw [if_neg hfits]
      exact ⟨t, hok, Nat.le_of_not_lt hfits, runEngine_idle rfl fuel⟩

/-- An ENCODE that completes has emitted the source's tokens from its cursor on, and then ended (R76, R84, R112). -/
theorem completesFrom_of_runEngine : ∀ {fuel : Nat} {s : State}, Inv s → s.phase = .runEncode →
    s.latSrcLen.toNat - s.enc.c ≤ fuel → (runEngine (fuel + 1) s).status = statusDone →
    ∃ u, EncodedFrom s (tokensFrom s.srcByte s.latSrcLen.toNat s.maxLen s.params.mfTie fuel s.enc.c) u ∧
      CompletesFrom u (runEngine (fuel + 1) s)
  | fuel, s, hinv, hp, hfuel, hdone => by
    have hlegal := (hinv.context (by simp [hp])).legal
    by_cases hc : s.enc.c < s.latSrcLen.toNat
    · obtain ⟨fuel, rfl⟩ := Nat.exists_eq_succ_of_ne_zero (by omega : fuel ≠ 0)
      have hround : engineStep s = .next (settle (emitTokens s.nextTokens s.noteFinds)) := by
        rw [engineStep_encode hp, encodeStep, hlegal, if_neg nofun, if_pos hc, encodeRound]
      have hnext := hinv.engineStep hround
      rw [runEngine_succ (by simp [hp]) hround] at hdone ⊢
      cases hr : roundRaises s.noteFinds s.nextTokens with
      | some raised =>
        obtain ⟨-, hdict, hbytes⟩ := (hinv.noteFinds.encoder (by rw [State.noteFinds_eq]; exact hp)).capacities
        obtain ⟨t, ht, -⟩ := emitTokens_raises (e := raised.1) (completed := raised.2) hdict hbytes hr
        rw [ht, settle, runEngine_idle rfl] at hdone
        exact absurd hdone (ErrorCause.status_ne_statusDone _)
      | none =>
        have hencoded := encodedFrom_noteFinds s s.nextTokens
        rw [emitTokens_fits hr, settle] at hdone hnext ⊢
        generalize s.nextTokens.foldl afterToken s.noteFinds = t at hencoded hdone hnext ⊢
        obtain ⟨hsrc, hlen, hmax, hparams, hphase, hcursor⟩ := hencoded.fields
        have hmaxLen : 17 ≤ s.maxLen := le_maxLenOf s.params s.variant
        have hspan : 1 ≤ spanOf s.nextTokens :=
          (decideTokens_cover hc (by omega) (find_len_le s.srcByte _ (by omega) s.params.mfTie) s.srcByte).1
        obtain ⟨u, hu, hend⟩ := completesFrom_of_runEngine hnext (hphase.trans hp)
          (by rw [hlen, hcursor]; omega : _ ≤ fuel) hdone
        rw [hsrc, hlen, hmax, hparams, hcursor] at hu
        exact ⟨u, by rw [tokensFrom, if_pos hc]; exact hencoded.append hu, hend⟩
    · refine ⟨s, ⟨s.seed, s.skip, ?_⟩, completesFrom_of_sourceEncoded hp hlegal (Nat.le_of_not_lt hc) hdone⟩
      cases fuel with
      | zero => rfl
      | succ fuel => rw [tokensFrom, if_neg hc]; rfl

/-- FINISH_FLAGS that succeeds leaves the flushed flag words and the partial one (R82). -/
theorem finishFlags_ok {s t : State} (h : finishFlags s = .ok t) :
    t = { s with flags := s.flags ++ (if 0 < s.enc.fbits then [s.enc.facc] else []), enc := t.enc } ∧
      t.enc.tokens = s.enc.tokens := by
  rw [finishFlags_eq] at h
  split at h
  · rename_i hpartial
    split at h
    · cases h
      rw [if_pos hpartial]
      exact ⟨rfl, rfl⟩
    · cases h
  · rename_i hnone
    cases h
    rw [if_neg hnone, List.append_nil]
    exact ⟨rfl, rfl⟩

/-- The container of a token sequence (R112): the streams of its tokens, assembled by the layout of a variant. -/
def containerOf (v : Variant) (w1 len : Word) (ts : List Token) : List Byte :=
  let flags := flagWordsFrom (flagWidthOf v) 0 0 ts
  let dict := dictOf (codingOf v) ts
  let bytes := bytesOf (codingOf v) ts
  match layoutOf v with
  | .tables => assembleTables (magicOf v) len flags dict bytes
  | .groups => assembleGroups (magicOf v) w1 len ts.length flags dict bytes
  | .stream => assembleStream (codingOf v) (magicOf v) len ts.length flags dict bytes

/-- The size of the container of a token sequence (R85). -/
def containerSizeOf (v : Variant) (ts : List Token) : Nat :=
  assembledSize (layoutOf v) (flagWordsFrom (flagWidthOf v) 0 0 ts) (dictOf (codingOf v) ts) (bytesOf (codingOf v) ts)

/-- What an ENCODE of the tokens `ts` that completes leaves of a state, for the host and the next command (R90, R112, R114). -/
structure EncodeCompleted (v : Variant) (ts : List Token) (s w : State) : Prop where
  fits : containerSizeOf v ts ≤ s.dstCap.toNat
  mem : w.mem = Memory.writeBytes s.mem s.dstAddr.toNat (containerOf v s.params.groupsHdrW1 s.srcLen ts)
  outLen : w.outLen = BitVec.ofNat 32 (containerSizeOf v ts)
  dstAddr : w.dstAddr = s.dstAddr
  literals : w.litCount = BitVec.ofNat 32 (literalsIn ts)
  copies : w.matchCount = BitVec.ofNat 32 (copiesIn ts)

/-- A fresh ENCODE whose tokens have been emitted and which then ends leaves the container of the tokens (R112). -/
theorem encodeCompleted_of_completesFrom {v : Variant} {s u w : State} {ts : List Token}
    (henc : EncodedFrom (s.beginCommand (commandWord 1 (codeOfVariant v))).startEncode ts u) (hend : CompletesFrom u w) :
    EncodeCompleted v ts s w := by
  have hv := beginCommand_commandWord_variant s 1 v
  obtain ⟨seed, skip, rfl⟩ := henc
  obtain ⟨t, hfin, hfits, rfl⟩ := hend
  obtain ⟨ht, htokens⟩ := finishFlags_ok hfin
  have hfw : (s.beginCommand (commandWord 1 (codeOfVariant v))).startEncode.fw = flagWidthOf v := congrArg flagWidthOf hv
  have hcoding : (s.beginCommand (commandWord 1 (codeOfVariant v))).startEncode.coding = codingOf v := congrArg codingOf hv
  rw [foldl_afterToken, hfw, hcoding] at ht htokens
  have hvariant : t.variant = v := by rw [ht]; exact hv
  have hflags : t.flags = flagWordsFrom (flagWidthOf v) 0 0 ts := by
    rw [ht]
    exact (foldl_recordFlag ts).trans (List.nil_append _)
  have hdict : t.dict = dictOf (codingOf v) ts := by rw [ht]; exact List.nil_append _
  have hbytes : t.bytes = bytesOf (codingOf v) ts := by rw [ht]; exact List.nil_append _
  have hcount : t.enc.tokens = ts.length := htokens.trans (Nat.zero_add _)
  have hsize : t.containerSize = containerSizeOf v ts := by
    rw [State.containerSize, State.layout, hvariant, hflags, hdict, hbytes, containerSizeOf]
  have hcontainer : t.container = containerOf v s.params.groupsHdrW1 s.srcLen ts := by
    have hparams : t.params = s.params := by rw [ht]; rfl
    have hlen : t.latSrcLen = s.srcLen := by rw [ht]; rfl
    rw [State.container, State.layout, State.coding, hvariant, hflags, hdict, hbytes, hcount, hparams, hlen]
    rfl
  have haddr : t.latDstAddr = s.dstAddr := by rw [ht]; rfl
  have hmem : t.mem = s.mem := by rw [ht]; rfl
  refine ⟨?_, ?_, congrArg (BitVec.ofNat 32) hsize, ?_, ?_, ?_⟩
  · rw [← hsize]
    exact hfits.trans_eq (by rw [ht]; rfl)
  · rw [← hcontainer, ← haddr, ← hmem]
    rfl
  · change t.dstAddr = s.dstAddr
    rw [ht]
    rfl
  · change t.litCount = _
    rw [ht]
    exact BitVec.zero_add _
  · change t.matchCount = _
    rw [ht]
    exact BitVec.zero_add _

/-- An ENCODE that completes leaves the container of the source's tokens (R84, R112). -/
theorem Inv.encodeCompleted {v : Variant} {s : State} (h : Inv s) (hb : s.busy = false) (hregions : RegionsStart s)
    (hdone : (s.runCommand (commandWord 1 (codeOfVariant v))).status = statusDone) :
    EncodeCompleted v
      (sourceTokens (fun i => Memory.read s.mem (s.srcAddr.toNat + i)) s.srcLen.toNat (maxLenOf s.params v) s.params.mfTie)
      s (s.runCommand (commandWord 1 (codeOfVariant v))) := by
  have hinv := h.writeCmd (commandWord 1 (codeOfVariant v))
  rw [State.runCommand, hregions.writeCmd_encode hb] at *
  obtain ⟨u, hu, hend⟩ := completesFrom_of_runEngine hinv rfl le_rfl hdone
  refine encodeCompleted_of_completesFrom ?_ hend
  have hmax : (s.beginCommand (commandWord 1 (codeOfVariant v))).startEncode.maxLen = maxLenOf s.params v :=
    congrArg (maxLenOf s.params) (beginCommand_commandWord_variant s 1 v)
  rw [hmax] at hu
  exact hu

end Sys2Proof.Machine

namespace Sys2Proof.Machine

/-! ### The flag word of a group of tokens (R49, R81, R98) -/

/-- A token's stream elements hold its flag bit (R79, R80). -/
theorem tokenCode_tokenInstr_flag (coding : Coding) (t : Token) : (tokenCode (tokenInstr coding t)).flag = t.isLiteral := by
  cases t with
  | literal b => rfl
  | copy n d =>
    cases coding with
    | mio => rfl
    | yay =>
      dsimp only [tokenInstr, matchInstr]
      split <;> rfl
    | rvl =>
      dsimp only [tokenInstr, matchInstr]
      split
      · rfl
      · split <;> rfl

/-- The flag word of a group whose tokens from number `n` on are `ts`, `acc` holding the bits of those before (R81). -/
def groupWord (fw : Nat) (acc : Word) (n : Nat) : List Token → Word
  | [] => acc
  | t :: ts => groupWord fw (withFlag fw acc n t) (n + 1) ts

/-- A flag word holds the bits of the tokens `ts`, the first of them token `n` of the group (R49). -/
def HoldsFlags (fw : Nat) (w : Word) (n : Nat) : List Token → Prop
  | [] => True
  | t :: ts => flagOf fw w n = t.isLiteral ∧ HoldsFlags fw w (n + 1) ts

/-- The flag words of tokens are the word of the group they fill up, and those of the tokens after it (R81, R82). -/
theorem flagWordsFrom_group {fw n : Nat} (hn : n < fw) {ts : List Token} (hsome : n ≠ 0 ∨ ts ≠ []) (acc : Word) :
    flagWordsFrom fw acc n ts = groupWord fw acc n (ts.take (fw - n)) :: flagWordsFrom fw 0 0 (ts.drop (fw - n)) := by
  induction ts generalizing acc n with
  | nil =>
    have hn0 : n ≠ 0 := hsome.resolve_right (not_not.2 rfl)
    simp [flagWordsFrom, groupWord, hn0]
  | cons t ts ih =>
    rw [flagWordsFrom_cons]
    have hsucc : fw - n = fw - (n + 1) + 1 := by omega
    rw [hsucc, List.take_succ_cons, List.drop_succ_cons, groupWord]
    by_cases hlast : n + 1 = fw
    · rw [if_pos hlast, hlast, Nat.sub_self, List.take_zero, List.drop_zero, groupWord]
    · rw [if_neg hlast, ih (by omega) (.inl n.succ_ne_zero)]

/-- A token's flag bit leaves those of the other places alone (R49). -/
theorem flagOf_withFlag_of_ne {fw n j : Nat} (hn : n < fw) (hj : j < fw) (hne : j ≠ n) (acc : Word)
    (t : Token) : flagOf fw (withFlag fw acc n t) j = flagOf fw acc j := by
  cases t with
  | copy m d => rfl
  | literal b =>
    have hplace : fw - 1 - j < fw - 1 - n ∨ 0 < fw - 1 - j - (fw - 1 - n) := by omega
    simp only [withFlag, flagOf, flagMask, BitVec.getLsbD_or, BitVec.getLsbD_shiftLeft, BitVec.getLsbD_one]
    rcases hplace with h | h
    · simp [h]
    · simp [h.ne']

/-- A token's flag bit in a place still clear is the token's (R49). -/
theorem flagOf_withFlag_self {fw n : Nat} (hfw : fw ≤ 32) (hn : n < fw) {acc : Word} (hclear : flagOf fw acc n = false)
    (t : Token) : flagOf fw (withFlag fw acc n t) n = t.isLiteral := by
  cases t with
  | copy m d => exact hclear
  | literal b =>
    have hplace : fw - 1 - n < 32 := by omega
    simp [withFlag, flagOf, flagMask, Token.isLiteral, hplace]

/-- The tokens of a group leave the flag bits of those before them alone (R49). -/
theorem flagOf_groupWord_of_lt {fw : Nat} : ∀ {ts : List Token} {acc : Word} {n j : Nat}, j < n →
    n + ts.length ≤ fw → flagOf fw (groupWord fw acc n ts) j = flagOf fw acc j
  | [], _, _, _, _, _ => rfl
  | t :: ts, acc, n, j, hj, hlen => by
    rw [List.length_cons] at hlen
    rw [groupWord, flagOf_groupWord_of_lt (ts := ts) (by omega) (by omega),
      flagOf_withFlag_of_ne (by omega) (by omega) (by omega)]

/-- The flag word of a group holds its tokens' bits (R49, R81). -/
theorem holdsFlags_groupWord {fw : Nat} (hfw : fw ≤ 32) : ∀ {ts : List Token} {acc : Word} {n : Nat},
    (∀ j, n ≤ j → j < fw → flagOf fw acc j = false) → n + ts.length ≤ fw → HoldsFlags fw (groupWord fw acc n ts) n ts
  | [], _, _, _, _ => trivial
  | t :: ts, acc, n, hclear, hlen => by
    rw [List.length_cons] at hlen
    refine ⟨?_, ?_⟩
    · rw [groupWord, flagOf_groupWord_of_lt (ts := ts) (by omega) (by omega),
        flagOf_withFlag_self hfw (by omega) (hclear n le_rfl (by omega))]
    · refine holdsFlags_groupWord (ts := ts) hfw (fun j hnj hj => ?_) (by omega)
      rw [flagOf_withFlag_of_ne (by omega) hj (by omega)]
      exact hclear j (by omega) hj

/-- The flag word of a group has FW bits (R49). -/
theorem groupWord_lt {fw : Nat} : ∀ {ts : List Token} {acc : Word} {n : Nat}, acc.toNat < 2 ^ fw → n + ts.length ≤ fw →
    (groupWord fw acc n ts).toNat < 2 ^ fw
  | [], _, _, hacc, _ => hacc
  | t :: ts, acc, n, hacc, hlen => by
    rw [List.length_cons] at hlen
    refine groupWord_lt (ts := ts) ?_ (by omega)
    cases t with
    | literal b => exact or_bit_lt hacc (by omega)
    | copy m d => exact hacc

/-! ### The streams of a token sequence -/

/-- The dictionary entries of one token (R80). -/
@[simp] theorem dictOf_singleton (coding : Coding) (t : Token) :
    dictOf coding [t] = (tokenCode (tokenInstr coding t)).dict := List.append_nil _

/-- The bytes of one token (R79, R80). -/
@[simp] theorem bytesOf_singleton (coding : Coding) (t : Token) :
    bytesOf coding [t] = (tokenCode (tokenInstr coding t)).bytes := List.append_nil _

/-- The dictionary entries of a sequence in two parts (R80). -/
theorem dictOf_append (coding : Coding) (ts us : List Token) :
    dictOf coding (ts ++ us) = dictOf coding ts ++ dictOf coding us := List.flatMap_append

/-- The bytes of a sequence in two parts (R79, R80). -/
theorem bytesOf_append (coding : Coding) (ts us : List Token) :
    bytesOf coding (ts ++ us) = bytesOf coding ts ++ bytesOf coding us := List.flatMap_append

/-! ### The body of a container, cursor by cursor (R54, R55, R56, R94) -/

/-- The bytes of a token that the decoder reads through a cursor (R94). -/
def cursorBytes (layout : Layout) (coding : Coding) (c : Cursor) (t : Token) : List Byte :=
  (if cursorOf layout .d = c then (tokenCode (tokenInstr coding t)).dict.flatMap be16 else []) ++
    (if cursorOf layout .y = c then (tokenCode (tokenInstr coding t)).bytes else [])

/-- The flag word of the group that a token sequence begins, where the decoder reads flag words through the cursor. -/
def cursorFlagWord (layout : Layout) (c : Cursor) (ts : List Token) : List Byte :=
  if c = .fp then flagWordBytes layout (groupWord (8 * flagBytesOf layout) 0 0 (ts.take (8 * flagBytesOf layout))) else []

/-- The bytes the decoder reads through a cursor for a token sequence, the current flag word still having the bits of the
first `left` of them (R94, R97). -/
def bodyBytes (layout : Layout) (coding : Coding) (c : Cursor) : Nat → List Token → List Byte
  | _, [] => []
  | 0, t :: ts =>
    cursorFlagWord layout c (t :: ts) ++
      (cursorBytes layout coding c t ++ bodyBytes layout coding c (8 * flagBytesOf layout - 1) ts)
  | left + 1, t :: ts => cursorBytes layout coding c t ++ bodyBytes layout coding c left ts

section
variable (layout : Layout) (coding : Coding) (c : Cursor)

/-- A group begins with its flag word (R97). -/
theorem bodyBytes_group (t : Token) (ts : List Token) :
    bodyBytes layout coding c 0 (t :: ts) =
      cursorFlagWord layout c (t :: ts) ++ bodyBytes layout coding c (8 * flagBytesOf layout) (t :: ts) := by
  have hfw : 8 * flagBytesOf layout = 8 * flagBytesOf layout - 1 + 1 := by cases layout <;> rfl
  rw [hfw]
  rfl

/-- The tokens whose bits the current flag word has, and then the groups after them. -/
theorem bodyBytes_eq (left : Nat) (ts : List Token) :
    bodyBytes layout coding c left ts =
      (ts.take left).flatMap (cursorBytes layout coding c) ++ bodyBytes layout coding c 0 (ts.drop left) := by
  induction ts generalizing left with
  | nil => cases left <;> rfl
  | cons t ts ih =>
    cases left with
    | zero => rfl
    | succ left =>
      rw [bodyBytes, ih, List.take_succ_cons, List.drop_succ_cons, List.flatMap_cons, List.append_assoc]

/-- A group of tokens: its flag word, its tokens, and then the groups after it. -/
theorem bodyBytes_cons (t : Token) (ts : List Token) :
    bodyBytes layout coding c 0 (t :: ts) =
      cursorFlagWord layout c (t :: ts) ++
        (((t :: ts).take (8 * flagBytesOf layout)).flatMap (cursorBytes layout coding c) ++
          bodyBytes layout coding c 0 ((t :: ts).drop (8 * flagBytesOf layout))) := by
  rw [bodyBytes_group, bodyBytes_eq]

/-- Where no flag words are read, the tokens' bytes stand one after the other. -/
theorem bodyBytes_of_ne_fp {c : Cursor} (hc : c ≠ .fp) (left : Nat) (ts : List Token) :
    bodyBytes layout coding c left ts = ts.flatMap (cursorBytes layout coding c) := by
  induction ts generalizing left with
  | nil => cases left <;> rfl
  | cons t ts ih => cases left <;> simp [bodyBytes, cursorFlagWord, hc, ih]

end

/-- Both streams of a token sequence, each where the decoder reads it through the cursor. -/
theorem length_flatMap_cursorBytes (layout : Layout) (coding : Coding) (c : Cursor) (ts : List Token) :
    (ts.flatMap (cursorBytes layout coding c)).length =
      (if cursorOf layout .d = c then 2 * (dictOf coding ts).length else 0) +
        (if cursorOf layout .y = c then (bytesOf coding ts).length else 0) := by
  induction ts with
  | nil => simp [dictOf, bytesOf]
  | cons t ts ih =>
    have hdict := length_flatMap_const (f := be16) (k := 2) (fun _ => rfl) (tokenCode (tokenInstr coding t)).dict
    rw [List.flatMap_cons, List.length_append, ih, cursorBytes, List.length_append, apply_ite List.length,
      apply_ite List.length, hdict, dictOf_cons, bytesOf_cons, List.length_append, List.length_append, dictOf_singleton,
      bytesOf_singleton, List.length_nil]
    split <;> split <;> omega

/-- Token sequences, a group at a time. -/
theorem group_induction {fw : Nat} (hfw : 0 < fw) {P : List Token → Prop} (nil : P [])
    (group : ∀ t ts, P ((t :: ts).drop fw) → P (t :: ts)) : ∀ ts, P ts
  | [] => nil
  | t :: ts => group t ts (group_induction hfw nil group _)
  termination_by ts => ts.length
  decreasing_by simp only [List.length_drop, List.length_cons]; omega

/-- The flag words of tokens, a group at a time (R81). -/
theorem flagWordsFrom_cons_group {fw : Nat} (hfw : 0 < fw) (t : Token) (ts : List Token) :
    flagWordsFrom fw 0 0 (t :: ts) = groupWord fw 0 0 ((t :: ts).take fw) :: flagWordsFrom fw 0 0 ((t :: ts).drop fw) :=
  flagWordsFrom_group hfw (.inr (List.cons_ne_nil t ts)) 0

/-- A body's bytes at a cursor are the flag words and the tokens' bytes the decoder reads there (R85). -/
theorem length_bodyBytes (layout : Layout) (coding : Coding) (c : Cursor) (ts : List Token) :
    (bodyBytes layout coding c 0 ts).length =
      (if c = .fp then flagBytesOf layout * (flagWordsFrom (8 * flagBytesOf layout) 0 0 ts).length else 0) +
        (ts.flatMap (cursorBytes layout coding c)).length := by
  have hfw : 0 < 8 * flagBytesOf layout := by cases layout <;> decide
  induction ts using group_induction hfw with
  | nil => simp [bodyBytes, flagWordsFrom]
  | group t ts ih =>
    have hsplit := congrArg (fun us => (us.flatMap (cursorBytes layout coding c)).length)
      (List.take_append_drop (8 * flagBytesOf layout) (t :: ts))
    simp only [List.flatMap_append, List.length_append] at hsplit
    rw [bodyBytes_cons, List.length_append, List.length_append, ih, flagWordsFrom_cons_group hfw, List.length_cons,
      cursorFlagWord, apply_ite List.length, flagWordBytes_length, List.length_nil, ← hsplit]
    split
    · rw [Nat.mul_succ]
      omega
    · omega

/-! ### The assembled bodies (R87, R88, R89) -/

/-- The flag words of the Tables layout stand one after the other (R87). -/
theorem bodyBytes_tables_fp (coding : Coding) (ts : List Token) :
    bodyBytes .tables coding .fp 0 ts = (flagWordsFrom 32 0 0 ts).flatMap (flagWordBytes .tables) := by
  induction ts using group_induction (fw := 32) (by decide) with
  | nil => rfl
  | group t ts ih =>
    have hnone (us : List Token) : us.flatMap (cursorBytes .tables coding .fp) = [] :=
      List.flatMap_eq_nil_iff.2 fun _ _ => rfl
    rw [flagWordsFrom_cons_group (by decide), List.flatMap_cons, ← ih, bodyBytes_cons, hnone]
    rfl

/-- Entries of the D stream, where it has a cursor of its own (R87). -/
theorem flatMap_cursorBytes_dict {layout : Layout} {c : Cursor} (hd : cursorOf layout .d = c) (hy : cursorOf layout .y ≠ c)
    (coding : Coding) (ts : List Token) :
    ts.flatMap (cursorBytes layout coding c) = (dictOf coding ts).flatMap be16 := by
  have heq : cursorBytes layout coding c = fun t => (tokenCode (tokenInstr coding t)).dict.flatMap be16 :=
    funext fun t => by simp [cursorBytes, hd, hy]
  rw [heq, dictOf, List.flatMap_assoc]

/-- Bytes of the Y stream, where it has a cursor of its own (R87, R88). -/
theorem flatMap_cursorBytes_bytes {layout : Layout} {c : Cursor} (hd : cursorOf layout .d ≠ c)
    (hy : cursorOf layout .y = c) (coding : Coding) (ts : List Token) :
    ts.flatMap (cursorBytes layout coding c) = bytesOf coding ts := by
  have heq : cursorBytes layout coding c = fun t => (tokenCode (tokenInstr coding t)).bytes :=
    funext fun t => by simp [cursorBytes, hd, hy]
  rw [heq, bytesOf]

/-- A literal has no descriptor (R88). -/
theorem groupDescriptors_literal {w : Word} {j : Nat} (h : flagOf 16 w j = true) (count : Nat) (dict : List Half) :
    groupDescriptors w (count + 1) j dict = groupDescriptors w count (j + 1) dict := by
  cases dict <;> simp [groupDescriptors, h]

/-- A match has the next entry as its descriptor (R88). -/
theorem groupDescriptors_match {w : Word} {j : Nat} (h : flagOf 16 w j = false) (count : Nat) (d : Half) (dict : List Half) :
    groupDescriptors w (count + 1) j (d :: dict) =
      (be16 d ++ (groupDescriptors w count (j + 1) dict).1, (groupDescriptors w count (j + 1) dict).2) := by
  simp [groupDescriptors, h]

/-- A group's descriptors are those of its tokens (R88). -/
theorem groupDescriptors_of_holdsFlags {w : Word} (rest : List Half) : ∀ {ts : List Token} {j : Nat}, HoldsFlags 16 w j ts →
    groupDescriptors w ts.length j (dictOf .mio ts ++ rest) = (ts.flatMap (cursorBytes .groups .mio .fp), rest)
  | [], _, _ => rfl
  | .literal b :: ts, j, ⟨hflag, hts⟩ => by
    rw [List.length_cons, groupDescriptors_literal hflag]
    exact groupDescriptors_of_holdsFlags rest hts
  | .copy n d :: ts, j, ⟨hflag, hts⟩ => by
    have hrest := groupDescriptors_of_holdsFlags rest hts
    have hentry := groupDescriptors_match hflag ts.length (descriptor (BitVec.ofNat 4 (n - 3)) (BitVec.ofNat 12 (d - 1)))
      (dictOf .mio ts ++ rest)
    rw [hrest] at hentry
    exact hentry

/-- The groups are the bytes the decoder reads through their cursor (R88, R94). -/
theorem groupBodies_flagWordsFrom (ts : List Token) :
    groupBodies (flagWordsFrom 16 0 0 ts) ts.length (dictOf .mio ts) = bodyBytes .groups .mio .fp 0 ts := by
  induction ts using group_induction (fw := 16) (by decide) with
  | nil => rfl
  | group t ts ih =>
    have hholds : HoldsFlags 16 (groupWord 16 0 0 ((t :: ts).take 16)) 0 ((t :: ts).take 16) :=
      holdsFlags_groupWord (by decide) (fun _ _ _ => by simp [flagOf]) (by simp)
    have hgroup := groupDescriptors_of_holdsFlags (dictOf .mio ((t :: ts).drop 16)) hholds
    rw [← dictOf_append, List.take_append_drop, List.length_take] at hgroup
    rw [flagWordsFrom_cons_group (by decide), groupBodies, hgroup, ← List.length_drop]
    dsimp only
    rw [ih, bodyBytes_cons, List.append_assoc]
    rfl

/-- An instruction of a coding is a token (R49). -/
theorem tokenOf_ne_none_of_coding? {i : Instr} {coding : Coding} (h : i.coding? = some coding) : tokenOf i ≠ none := by
  cases i <;> simp [tokenOf, Instr.coding?] at h ⊢

/-- A token's elements, taken from the front of the streams, are its bytes in the Stream layout (R89). -/
theorem streamToken_tokenCode {coding : Coding} {t : Token} (hwf : (tokenInstr coding t).wf = true) (dict : List Half)
    (bytes : List Byte) :
    streamToken coding t.isLiteral ((tokenCode (tokenInstr coding t)).dict ++ dict)
        ((tokenCode (tokenInstr coding t)).bytes ++ bytes) =
      (cursorBytes .stream coding .fp t, dict, bytes) := by
  cases t with
  | literal b => rfl
  | copy n d =>
    have hcoding := matchInstr_coding? coding n d
    obtain ⟨b, hb, -⟩ | ⟨x, e, -, hcode⟩ := token_cases hwf (tokenOf_ne_none_of_coding? hcoding) (.inr hcoding)
    · rw [tokenInstr] at hb
      rw [hb] at hcoding
      cases hcoding
    · have hbytes : cursorBytes .stream coding .fp (.copy n d) =
          (descriptorCode coding x e).dict.flatMap be16 ++ (descriptorCode coding x e).bytes := by
        rw [← hcode]
        rfl
      rw [hcode, hbytes, descriptorCode]
      cases hextra : extraOf coding (descNibble x) with
      | none => simp [streamToken, Token.isLiteral, matchCode, hextra]
      | escape => simp [streamToken, Token.isLiteral, matchCode, hextra]
      | half => simp [streamToken, Token.isLiteral, matchCode, hextra]

/-- A unit's tokens are the bytes of its tokens (R89). -/
theorem unitTokens_of_holdsFlags {coding : Coding} {w : Word} (dict : List Half) (bytes : List Byte) :
    ∀ {ts : List Token} {j : Nat}, (∀ t ∈ ts, (tokenInstr coding t).wf = true) → HoldsFlags 8 w j ts →
    unitTokens coding w ts.length j (dictOf coding ts ++ dict) (bytesOf coding ts ++ bytes) =
      (ts.flatMap (cursorBytes .stream coding .fp), dict, bytes)
  | [], _, _, _ => rfl
  | t :: ts, j, hwf, ⟨hflag, hts⟩ => by
    obtain ⟨ht, hwf⟩ := List.forall_mem_cons.1 hwf
    rw [List.length_cons, unitTokens, hflag, dictOf_cons, bytesOf_cons, dictOf_singleton, bytesOf_singleton,
      List.append_assoc, List.append_assoc, streamToken_tokenCode ht]
    simp only [unitTokens_of_holdsFlags dict bytes hwf hts, List.flatMap_cons]

/-- The units are the bytes the decoder reads through their cursor (R89, R94). -/
theorem unitBodies_flagWordsFrom {coding : Coding} {ts : List Token} (hwf : ∀ t ∈ ts, (tokenInstr coding t).wf = true) :
    unitBodies coding (flagWordsFrom 8 0 0 ts) ts.length (dictOf coding ts) (bytesOf coding ts) =
      bodyBytes .stream coding .fp 0 ts := by
  induction ts using group_induction (fw := 8) (by decide) with
  | nil => rfl
  | group t ts ih =>
    have hholds : HoldsFlags 8 (groupWord 8 0 0 ((t :: ts).take 8)) 0 ((t :: ts).take 8) :=
      holdsFlags_groupWord (by decide) (fun _ _ _ => by simp [flagOf]) (by simp)
    have hunit := unitTokens_of_holdsFlags (dictOf coding ((t :: ts).drop 8)) (bytesOf coding ((t :: ts).drop 8))
      (fun t ht => hwf t (List.mem_of_mem_take ht)) hholds
    rw [← dictOf_append, ← bytesOf_append, List.take_append_drop, List.length_take] at hunit
    rw [flagWordsFrom_cons_group (by decide), unitBodies, hunit, ← List.length_drop]
    dsimp only
    rw [ih fun t ht => hwf t (List.mem_of_mem_drop ht), bodyBytes_cons, List.append_assoc]
    rfl

/-! ### The container, header and body (R48, R87, R88, R89) -/

/-- The bytes of a container's body that the decoder reads through a cursor. -/
def bodyOf (v : Variant) (ts : List Token) (c : Cursor) : List Byte := bodyBytes (layoutOf v) (codingOf v) c 0 ts

/-- The four header fields of a container whose body has `fp` bytes for the first cursor and `dp` for the second (R48). -/
def headerOf (layout : Layout) (magic w1 len : Word) (fp dp : Nat) : List Byte :=
  match layout with
  | .tables => be32 magic ++ be32 len ++ be32 (BitVec.ofNat 32 (16 + fp)) ++ be32 (BitVec.ofNat 32 (16 + fp + dp))
  | .groups => be32 magic ++ be32 w1 ++ be32 len ++ be32 (BitVec.ofNat 32 (16 + fp + dp))
  | .stream => be32 magic ++ be32 len ++ be32 0 ++ be32 0

/-- A header has HDR_LEN bytes (R48). -/
theorem length_headerOf (layout : Layout) (magic w1 len : Word) (fp dp : Nat) :
    (headerOf layout magic w1 len fp dp).length = 16 := by cases layout <;> rfl

/-- Through a cursor that reads no stream nothing is read (R94). -/
theorem bodyBytes_eq_nil {layout : Layout} {c : Cursor} (hf : c ≠ .fp) (hd : cursorOf layout .d ≠ c)
    (hy : cursorOf layout .y ≠ c) (coding : Coding) (left : Nat) (ts : List Token) : bodyBytes layout coding c left ts = [] := by
  rw [bodyBytes_of_ne_fp _ _ hf, List.flatMap_eq_nil_iff]
  exact fun t _ => by simp [cursorBytes, hd, hy]

/-- A Tables container is its header and the bytes of the three cursors (R87). -/
theorem assembleTables_eq (coding : Coding) (magic w1 len : Word) (ts : List Token) :
    assembleTables magic len (flagWordsFrom 32 0 0 ts) (dictOf coding ts) (bytesOf coding ts) =
      headerOf .tables magic w1 len (bodyBytes .tables coding .fp 0 ts).length (bodyBytes .tables coding .dp 0 ts).length ++
        (bodyBytes .tables coding .fp 0 ts ++ (bodyBytes .tables coding .dp 0 ts ++ bodyBytes .tables coding .bp 0 ts)) := by
  have hdict := length_flatMap_const (f := be16) (k := 2) (fun _ => rfl) (dictOf coding ts)
  have hdp : bodyBytes .tables coding .dp 0 ts = (dictOf coding ts).flatMap be16 :=
    (bodyBytes_of_ne_fp (c := .dp) _ _ nofun _ _).trans (flatMap_cursorBytes_dict (layout := .tables) rfl nofun _ _)
  have hbp : bodyBytes .tables coding .bp 0 ts = bytesOf coding ts :=
    (bodyBytes_of_ne_fp (c := .bp) _ _ nofun _ _).trans
      (flatMap_cursorBytes_bytes (layout := .tables) (c := .bp) nofun rfl _ _)
  rw [bodyBytes_tables_fp, hdp, hbp, hdict, length_flatMap_const (flagWordBytes_length .tables)]
  simp only [assembleTables, headerOf, List.append_assoc]
  rfl

/-- A Groups container is its header and the bytes of the two cursors it has (R88). -/
theorem assembleGroups_eq (magic w1 len : Word) (ts : List Token) :
    assembleGroups magic w1 len ts.length (flagWordsFrom 16 0 0 ts) (dictOf .mio ts) (bytesOf .mio ts) =
      headerOf .groups magic w1 len (bodyBytes .groups .mio .fp 0 ts).length (bodyBytes .groups .mio .dp 0 ts).length ++
        (bodyBytes .groups .mio .fp 0 ts ++ (bodyBytes .groups .mio .dp 0 ts ++ bodyBytes .groups .mio .bp 0 ts)) := by
  have hdp : bodyBytes .groups .mio .dp 0 ts = [] :=
    bodyBytes_eq_nil (layout := .groups) (c := .dp) nofun nofun nofun _ _ _
  have hbp : bodyBytes .groups .mio .bp 0 ts = bytesOf .mio ts :=
    (bodyBytes_of_ne_fp (c := .bp) _ _ nofun _ _).trans
      (flatMap_cursorBytes_bytes (layout := .groups) (c := .bp) nofun rfl _ _)
  have hdict : ts.flatMap (cursorBytes .groups .mio .fp) = (dictOf .mio ts).flatMap be16 :=
    flatMap_cursorBytes_dict (layout := .groups) rfl nofun _ _
  have hlen : (bodyBytes .groups .mio .fp 0 ts).length =
      2 * (flagWordsFrom 16 0 0 ts).length + 2 * (dictOf .mio ts).length := by
    rw [length_bodyBytes, hdict, length_flatMap_const (f := be16) (k := 2) (fun _ => rfl)]
    rfl
  rw [assembleGroups, groupBodies_flagWordsFrom, hdp, hbp, hlen, headerOf, List.nil_append, List.length_nil, Nat.add_zero,
    ← Nat.add_assoc, List.append_assoc]
  rfl

/-- A Stream container is its header and the bytes of its one cursor (R89). -/
theorem assembleStream_eq {coding : Coding} {ts : List Token} (hwf : ∀ t ∈ ts, (tokenInstr coding t).wf = true)
    (magic w1 len : Word) :
    assembleStream coding magic len ts.length (flagWordsFrom 8 0 0 ts) (dictOf coding ts) (bytesOf coding ts) =
      headerOf .stream magic w1 len (bodyBytes .stream coding .fp 0 ts).length (bodyBytes .stream coding .dp 0 ts).length ++
        (bodyBytes .stream coding .fp 0 ts ++ (bodyBytes .stream coding .dp 0 ts ++ bodyBytes .stream coding .bp 0 ts)) := by
  have hnone {c : Cursor} (hc : Cursor.fp ≠ c) : bodyBytes .stream coding c 0 ts = [] :=
    bodyBytes_eq_nil (layout := .stream) hc.symm hc hc _ _ _
  rw [assembleStream, unitBodies_flagWordsFrom hwf, hnone (c := .dp) nofun, hnone (c := .bp) nofun, List.append_nil,
    List.append_nil, headerOf]

/-- A container of well-formed tokens is its header and the bytes of its cursors (R48, R87, R88, R89). -/
theorem containerOf_eq {v : Variant} {ts : List Token} (hwf : ∀ t ∈ ts, (tokenInstr (codingOf v) t).wf = true)
    (w1 len : Word) :
    containerOf v w1 len ts =
      headerOf (layoutOf v) (magicOf v) w1 len (bodyOf v ts .fp).length (bodyOf v ts .dp).length ++
        (bodyOf v ts .fp ++ (bodyOf v ts .dp ++ bodyOf v ts .bp)) := by
  cases v with
  | mio0 | yay0 => exact assembleTables_eq _ _ _ _ _
  | smsr00 => exact assembleGroups_eq _ _ _ _
  | yaz0 | rvl0 => exact assembleStream_eq hwf _ _ _

/-- The size of a container is that of its header and of the bytes of its cursors (R85). -/
theorem containerSizeOf_eq (v : Variant) (ts : List Token) :
    containerSizeOf v ts = 16 + ((bodyOf v ts .fp).length + ((bodyOf v ts .dp).length + (bodyOf v ts .bp).length)) := by
  simp only [containerSizeOf, assembledSize, bodyOf, length_bodyBytes, length_flatMap_cursorBytes, flagWidthOf, Config.hdrLen]
  cases layoutOf v <;> simp [cursorOf] <;> omega

end Sys2Proof.Machine

namespace Sys2Proof.Machine

/-! ### The rest of a cursor's range (R94) -/

/-- The bytes `b` are next at a cursor, and its range ends after them. -/
structure State.Rest (s : State) (c : Cursor) (b : List Byte) : Prop where
  next : s.Next c b
  ends : cursorValue s.dec c + b.length = cursorLimit s.dec c

/-- Past the first part of the rest, the second is the rest. -/
theorem State.Rest.append {s : State} {c : Cursor} {a b : List Byte} (h : s.Rest c (a ++ b)) :
    s.Next c a ∧ (s.skipBytes c a).Rest c b := by
  obtain ⟨hnext, hends⟩ := h
  refine ⟨hnext.append.1, hnext.append.2, ?_⟩
  rw [State.skipBytes, cursorValue_setCursor, cursorLimit_setCursor, ← hends, List.length_append, Nat.add_assoc]

/-- The rest of a cursor's range does not depend on the other cursors. -/
theorem State.Rest.skipBytes_of_ne {s : State} {c c' : Cursor} {b : List Byte} (h : s.Rest c b) (hne : c' ≠ c)
    (a : List Byte) : (s.skipBytes c' a).Rest c b := by
  refine ⟨h.next.skipBytes_of_ne hne a, ?_⟩
  rw [State.skipBytes, cursorValue_setCursor_of_ne hne, cursorLimit_setCursor, h.ends]

/-- Where every cursor's rest is known, bytes next at one of them are skipped there. -/
theorem State.Rest.skip {s : State} {k : Cursor} {a : List Byte} {rest : Cursor → List Byte}
    (h : ∀ c, s.Rest c ((if k = c then a else []) ++ rest c)) : s.Next k a ∧ ∀ c, (s.skipBytes k a).Rest c (rest c) := by
  have hk := h k
  rw [if_pos rfl] at hk
  refine ⟨hk.append.1, fun c => ?_⟩
  by_cases hc : k = c
  · exact hc ▸ hk.append.2
  · have hc' := h c
    rw [if_neg hc, List.nil_append] at hc'
    exact hc'.skipBytes_of_ne hc a

/-- The rest of a cursor's range depends on the cursor and on the bytes of the input region alone. -/
theorem State.Rest.congr {s t : State} {c : Cursor} {b : List Byte} (h : s.Rest c b)
    (hvalue : cursorValue t.dec c = cursorValue s.dec c) (hlimit : cursorLimit t.dec c = cursorLimit s.dec c)
    (hbytes : ∀ i, i < cursorLimit s.dec c → t.srcByte i = s.srcByte i) : t.Rest c b := by
  obtain ⟨⟨hinside, hread⟩, hends⟩ := h
  refine ⟨⟨by rwa [hvalue, hlimit], fun k hk => ?_⟩, by rwa [hvalue, hlimit]⟩
  rw [hvalue, hbytes _ (by omega), hread k hk]

/-- Every cursor's range lies inside the input region (R94). -/
theorem DecoderInv.cursorLimit_le {s : State} (h : DecoderInv s) (c : Cursor) : cursorLimit s.dec c ≤ s.latSrcLen.toNat := by
  cases c with
  | fp => exact h.flagCursor.2
  | dp => exact h.dictCursor.2
  | bp => exact h.byteCursor.2

/-! ### The effect of a token (R99, R100) -/

/-- What a token of the encoder does to a running DECODE (R99, R100). -/
def Token.put : Token → State → State
  | .literal b => State.putLiteral b
  | .copy n d => State.putMatch n (d - 1)

/-- A match instruction is the match of the length and the distance it means (R100). -/
theorem exec_of_tokenOf_copy {i : Instr} {coding : Coding} {n d : Nat} (hwf : i.wf = true) (hc : i.coding? = some coding)
    (htok : tokenOf i = some (.copy n d)) : ∃ off : Offset, off.toNat + 1 = d ∧ ∀ s, exec i s = doMatch coding n off s := by
  cases i with
  | matchMio nib off => cases hc; cases htok; exact ⟨off, rfl, fun _ => rfl⟩
  | matchYayS nib off =>
    cases hc; cases htok
    have hnib : ¬nib.toNat < 1 := Nat.not_lt.2 (of_decide_eq_true hwf)
    exact ⟨off, rfl, fun _ => if_neg hnib⟩
  | matchYayL off e => cases hc; cases htok; exact ⟨off, rfl, fun _ => rfl⟩
  | matchRvlS nib off =>
    cases hc; cases htok
    have hnib : ¬nib.toNat < 2 := Nat.not_lt.2 (of_decide_eq_true hwf)
    exact ⟨off, rfl, fun _ => if_neg hnib⟩
  | matchRvlM off e => cases hc; cases htok; exact ⟨off, rfl, fun _ => rfl⟩
  | matchRvlL off x => cases hc; cases htok; exact ⟨off, rfl, fun _ => rfl⟩
  | _ => cases hc

/-- The match of a length and a distance that its coding encodes is put (R100, R102). -/
theorem exec_tokenInstr {src : Nat → Byte} {maxLen : Nat} {s : State} {t : Token} (hready : TokenReady s)
    (hmax : maxLen ≤ codingMax s.coding) (ht : t.Describes src maxLen s.dec.o) (hspan : s.dec.o + t.span ≤ s.dec.n) :
    exec (tokenInstr s.coding t) s = .next (t.put s) := by
  cases t with
  | literal b => exact hready.exec_lit b
  | copy n d =>
    obtain ⟨⟨hn, hnmax⟩, ⟨hd, hdo, hwindow⟩, -⟩ := ht
    obtain ⟨off, rfl, hexec⟩ := exec_of_tokenOf_copy (matchInstr_wf s.coding hn d) (matchInstr_coding? s.coding n d)
      (tokenOf_matchInstr hn (hnmax.trans hmax) hd hwindow)
    exact (hexec s).trans ((hready.doMatch_eq rfl n off).trans (congrArg _ (State.runMatch_of_passes hdo hspan)))

/-- A copy of the source's own bytes extends what is written of the source (R103). -/
theorem read_copyBytes_of_agrees {src : Nat → Byte} {m : List Host.Cell} {base o d n : Nat} (hwf : Memory.wf m = true)
    (hd : 1 ≤ d) (hdo : d ≤ o) (hspace : base + o + n ≤ Config.addressSpace) (hagrees : Agrees src (o - d) o n)
    (hwritten : ∀ i, i < o → Memory.read m (base + i) = src i) (i : Nat) (hi : i < o + n) :
    Memory.read (copyBytes m base o (d - 1) n) (base + i) = src i := by
  induction i using Nat.strong_induction_on with
  | _ i ih =>
    by_cases hold : i < o
    · rw [read_copyBytes_outside n (.inl (by omega)), hwritten i hold]
    · obtain ⟨k, rfl⟩ := Nat.exists_eq_add_of_le (Nat.le_of_not_lt hold)
      rw [read_copyBytes_inside n hwf (by omega) hspace (by omega), show o + k - 1 - (d - 1) = o - d + k by omega,
        ih _ (by omega) (by omega), hagrees k (by omega)]

/-- A token that describes the source extends what is written of the source by its bytes (R106). -/
theorem Token.Describes.dstByte_put {src : Nat → Byte} {maxLen : Nat} {s : State} {t : Token}
    (ht : t.Describes src maxLen s.dec.o) (hwf : Memory.wf s.mem = true)
    (hspace : s.latDstAddr.toNat + (s.dec.o + t.span) ≤ Config.addressSpace)
    (hwritten : ∀ i, i < s.dec.o → s.dstByte i = src i) (i : Nat) (hi : i < s.dec.o + t.span) :
    (t.put s).dstByte i = src i := by
  cases t with
  | literal b =>
    obtain rfl : b = src s.dec.o := ht
    change Memory.read (Memory.write s.mem (s.latDstAddr.toNat + s.dec.o) (src s.dec.o)) (s.latDstAddr.toNat + i) = src i
    rcases Nat.lt_succ_iff_lt_or_eq.1 hi with hold | rfl
    · rw [Memory.read_write_other (by omega)]
      exact hwritten i hold
    · exact Memory.read_write_same hwf
  | copy n d =>
    obtain ⟨-, ⟨hd, hdo, -⟩, hagrees⟩ := ht
    exact read_copyBytes_of_agrees hwf hd hdo (by rw [Nat.add_assoc]; exact hspace) hagrees hwritten i hi

/-! ### A DECODE of the tokens of a source (R96, R106) -/

/-- The part of a running DECODE's state that its steps leave alone, or add to: the variant, the output address, the decoded
size, and the counters at the end if the tokens `ts` are still to come. -/
def State.outlook (s : State) (ts : List Token) : Variant × Word × Nat × Word × Word :=
  (s.variant, s.latDstAddr, s.dec.n, s.litCount + BitVec.ofNat 32 (literalsIn ts),
    s.matchCount + BitVec.ofNat 32 (copiesIn ts))

/-- A running DECODE with the tokens `ts` to come, which describe the source from the output cursor on: what is written is
the source's, the current flag word has the bits of the tokens of its group, and the rest of each cursor's range holds the
bytes of the tokens (R94, R97, R98). -/
structure Decoding (src : Nat → Byte) (maxLen : Nat) (s : State) (ts : List Token) : Prop where
  inv : Inv s
  running : s.phase = .runDecode
  encodable : maxLen ≤ codingMax s.coding
  span : s.dec.o + spanOf ts = s.dec.n
  describes : Describes src maxLen s.dec.o ts
  written : ∀ i, i < s.dec.o → s.dstByte i = src i
  flags : HoldsFlags s.fw s.dec.word (s.fw - s.dec.left) (ts.take s.dec.left)
  streams : ∀ c, s.Rest c (bodyBytes s.layout s.coding c s.dec.left ts)

section
variable {src : Nat → Byte} {maxLen : Nat} {s : State} {t : Token} {ts : List Token}

/-- A token of the source covers a byte at least. -/
theorem Token.Describes.one_le_span {c : Nat} (h : t.Describes src maxLen c) : 1 ≤ t.span := by
  cases t with
  | literal b => exact le_rfl
  | copy n d => exact Nat.le_of_succ_le (Nat.le_of_succ_le h.1.1)

/-- A token of the source is a well-formed instruction. -/
theorem Token.Describes.wf {c : Nat} (h : t.Describes src maxLen c) (coding : Coding) : (tokenInstr coding t).wf = true := by
  cases t with
  | literal b => rfl
  | copy n d => exact matchInstr_wf coding h.1.1 d

/-- A token's instruction is a token, and of the coding if of any. -/
theorem tokenInstr_isToken (coding : Coding) (t : Token) :
    tokenOf (tokenInstr coding t) ≠ none ∧
      ((tokenInstr coding t).coding? = none ∨ (tokenInstr coding t).coding? = some coding) := by
  cases t with
  | literal b => exact ⟨nofun, .inl rfl⟩
  | copy n d =>
    have hc := matchInstr_coding? coding n d
    exact ⟨tokenOf_ne_none_of_coding? hc, .inr hc⟩

/-- While tokens are to come the output is not full. -/
theorem Decoding.room (h : Decoding src maxLen s (t :: ts)) : s.dec.o < s.dec.n := by
  have hspan := h.span
  have hone := h.describes.1.one_le_span
  rw [spanOf] at hspan
  omega

/-- The engine's step is the decoder's. -/
theorem Decoding.engineStep_eq (h : Decoding src maxLen s ts) : engineStep s = decodeStep s := by
  rw [engineStep, h.running]

/-- A step of the decoder keeps the bytes of the input region (R28). -/
theorem Decoding.srcByte_eq (h : Decoding src maxLen s ts) {u : State} (hstep : engineStep s = .next u) (c : Cursor) (i : Nat)
    (hi : i < cursorLimit s.dec c) : u.srcByte i = s.srcByte i :=
  (h.inv.engineStep_writesOnlyOutput hstep).srcByte_eq (h.inv.context (by simp [h.running]))
    (hi.trans_le ((h.inv.decoder h.running).cursorLimit_le c))

/-- The decoder past the bytes of a flag word, with that word as its current one (R97). -/
def State.withFlagWord (s : State) (w : Word) : State :=
  { s with dec := { (s.skipBytes .fp (flagWordBytes s.layout w)).dec with word := w, left := s.fw } }

/-- The value of a flag word's bytes (R7, R54, R55, R56). -/
theorem bigEndian_flagWordBytes {layout : Layout} {w : Word} (h : w.toNat < 2 ^ (8 * flagBytesOf layout)) :
    bigEndian (flagWordBytes layout w) = w.toNat := by
  cases layout with
  | tables => exact bigEndian_be32 w
  | groups =>
    rw [flagWordBytes, bigEndian_be16, BitVec.toNat_setWidth]
    exact Nat.mod_eq_of_lt h
  | stream =>
    rw [flagWordBytes, bigEndian_singleton, BitVec.toNat_setWidth]
    exact Nat.mod_eq_of_lt h

/-- A flag word whose bytes are next is read (R97). -/
theorem readFlagWord_of_next {w : Word} (hnext : s.Next .fp (flagWordBytes s.layout w)) (hw : w.toNat < 2 ^ s.fw) :
    readFlagWord s = .ok (s.withFlagWord w) := by
  have hinside := hnext.inside
  have hfield := hnext.containerField
  rw [flagWordBytes_length] at hinside hfield
  rw [bigEndian_flagWordBytes (s.fw_eq ▸ hw)] at hfield
  rw [cursorValue, cursorLimit] at hinside
  rw [cursorValue] at hfield
  rw [readFlagWord_eq, if_neg (Nat.not_lt.2 hinside), hfield, BitVec.ofNat_toNat, BitVec.setWidth_eq, State.withFlagWord,
    State.skipBytes, flagWordBytes_length]
  rfl

/-- With no flag bit left, the engine reads the flag word of the group of tokens to come (R97). -/
theorem Decoding.flagWord_step (h : Decoding src maxLen s (t :: ts)) (hleft : s.dec.left = 0) :
    ∃ u, engineStep s = .next u ∧ Decoding src maxLen u (t :: ts) ∧ u.dec.left = s.fw ∧
      u.outlook (t :: ts) = s.outlook (t :: ts) := by
  have hlen : 0 + ((t :: ts).take s.fw).length ≤ s.fw := by
    rw [Nat.zero_add]
    exact List.length_take_le _ _
  have hfw : s.fw ≤ 32 := by
    rw [State.fw_eq]
    cases s.layout <;> decide
  have hstreams (c : Cursor) : s.Rest c ((if Cursor.fp = c then
      flagWordBytes s.layout (groupWord s.fw 0 0 ((t :: ts).take s.fw)) else []) ++
        bodyBytes s.layout s.coding c s.fw (t :: ts)) := by
    have hc := h.streams c
    rw [hleft, bodyBytes_group, cursorFlagWord, ← s.fw_eq] at hc
    simpa only [eq_comm (a := c)] using hc
  obtain ⟨hnext, hrest⟩ := State.Rest.skip hstreams
  have hread := readFlagWord_of_next hnext (groupWord_lt (by simp) hlen)
  obtain ⟨hin, hout⟩ := h.inv.engineInRegions.decode h.running
  have hstep := h.engineStep_eq.trans (decodeStep_of_flagWord hin hout h.room hleft hread)
  refine ⟨_, hstep, ?_, rfl, rfl⟩
  exact {
    inv := h.inv.engineStep hstep
    running := h.running
    encodable := h.encodable
    span := h.span
    describes := h.describes
    written := h.written
    flags := by
      change HoldsFlags s.fw (groupWord s.fw 0 0 ((t :: ts).take s.fw)) (s.fw - s.fw) ((t :: ts).take s.fw)
      rw [Nat.sub_self]
      exact holdsFlags_groupWord hfw (fun _ _ _ => by simp [flagOf]) hlen
    streams := fun c => (hrest c).congr (by cases c <;> rfl) (by cases c <;> rfl) fun _ _ => rfl }

/-- With a flag bit left, the next token to come is fetched, and its bytes are then behind the cursors (R98 to R101). -/
theorem Decoding.fetch {left : Nat} (h : Decoding src maxLen s (t :: ts)) (hleft : s.dec.left = left + 1) :
    ∃ d : Decoder, fetchToken s = .ok (tokenInstr s.coding t, { s with dec := d }) ∧ d.n = s.dec.n ∧ d.o = s.dec.o ∧
      d.word = s.dec.word ∧ d.left = left ∧ (∀ c, cursorLimit d c = cursorLimit s.dec c) ∧
      ∀ c, ({ s with dec := d } : State).Rest c (bodyBytes s.layout s.coding c left ts) := by
  obtain ⟨htok, hcoding⟩ := tokenInstr_isToken s.coding t
  have hwidth := (h.inv.decoder h.running).flagBits.1
  have hflag : nextFlag s = (tokenCode (tokenInstr s.coding t)).flag := by
    have hbit := h.flags
    rw [hleft, List.take_succ_cons, HoldsFlags, flagOf, show s.fw - 1 - (s.fw - (left + 1)) = left by omega] at hbit
    rw [nextFlag, hleft, tokenCode_tokenInstr_flag]
    exact hbit.1
  have hstreams (c : Cursor) : (consumeFlag s).Rest c
      ((if cursorOf s.layout .d = c then (tokenCode (tokenInstr s.coding t)).dict.flatMap be16 else []) ++
        ((if cursorOf s.layout .y = c then (tokenCode (tokenInstr s.coding t)).bytes else []) ++
          bodyBytes s.layout s.coding c left ts)) := by
    have hc := h.streams c
    rw [hleft, bodyBytes, cursorBytes, List.append_assoc] at hc
    exact hc.congr (cursorValue_consumeFlag s c) (cursorLimit_consumeFlag s c) fun _ _ => rfl
  obtain ⟨hdict, hstreams'⟩ := State.Rest.skip hstreams
  obtain ⟨hbytes, hrest⟩ := State.Rest.skip hstreams'
  refine ⟨_, fetchToken_of_next (h.describes.1.wf s.coding) htok hcoding hflag hdict hbytes, ?_, ?_, ?_, ?_, ?_, hrest⟩
  · simp [State.skipBytes, consumeFlag]
  · simp [State.skipBytes, consumeFlag]
  · simp [State.skipBytes, consumeFlag]
  · simp [State.skipBytes, consumeFlag, hleft]
  · exact fun c => (cursorLimit_setCursor ..).trans ((cursorLimit_setCursor ..).trans (cursorLimit_consumeFlag s c))

/-- A token moves the output cursor past its bytes, and leaves the rest of the decoder alone (R99, R100). -/
@[simp] theorem Token.put_dec (t : Token) (s : State) : (t.put s).dec = { s.dec with o := s.dec.o + t.span } := by
  cases t <;> rfl

/-- A token counts itself (R99, R100), and leaves the variant, the latches and the phase alone. -/
theorem Token.put_fields (t : Token) (s : State) :
    (t.put s).variant = s.variant ∧ (t.put s).latDstAddr = s.latDstAddr ∧ (t.put s).phase = s.phase ∧
      (t.put s).litCount = s.litCount + BitVec.ofNat 32 (literalsIn [t]) ∧
      (t.put s).matchCount = s.matchCount + BitVec.ofNat 32 (copiesIn [t]) := by
  cases t <;> simp [Token.put, State.putLiteral, State.putMatch, literalsIn, copiesIn]

/-- With a flag bit left, the engine executes the next token to come (R96). -/
theorem Decoding.token_step {left : Nat} (h : Decoding src maxLen s (t :: ts)) (hleft : s.dec.left = left + 1) :
    ∃ u, engineStep s = .next u ∧ Decoding src maxLen u ts ∧ u.dec.left = left ∧ u.outlook ts = s.outlook (t :: ts) := by
  have hspan := h.span
  rw [spanOf, ← Nat.add_assoc] at hspan
  obtain ⟨hin, hout⟩ := h.inv.engineInRegions.decode h.running
  have hready := tokenReady_of_outputFits h.running hout h.room
  obtain ⟨d, hfetch, hn, ho, hword, hdleft, hlimit, hrest⟩ := h.fetch hleft
  have hdescribes : t.Describes src maxLen d.o := ho ▸ h.describes.1
  have hinside : d.o + t.span ≤ d.n := by
    rw [ho, hn]
    omega
  have hspace : s.latDstAddr.toNat + (d.o + t.span) ≤ Config.addressSpace := by
    have hregion := (h.inv.context (by simp [h.running])).regions.2
    have hfits := (h.inv.decoder h.running).fits
    omega
  have hexec : exec (tokenInstr s.coding t) { s with dec := d } = .next (t.put { s with dec := d }) :=
    exec_tokenInstr (hready.withDec hn ho) h.encodable hdescribes hinside
  have hstep := h.engineStep_eq.trans ((decodeStep_of_fetched hin hout h.room (by omega) hfetch).trans hexec)
  obtain ⟨hvariant, hdst, hphase, hlit, hmatch⟩ := t.put_fields { s with dec := d }
  have hlayout : (t.put { s with dec := d }).layout = s.layout := congrArg layoutOf hvariant
  have hcoding : (t.put { s with dec := d }).coding = s.coding := congrArg codingOf hvariant
  have hfw : (t.put { s with dec := d }).fw = s.fw := congrArg flagWidthOf hvariant
  have hwidth := (h.inv.decoder h.running).flagBits.1
  refine ⟨_, hstep, ?_, by rw [Token.put_dec]; exact hdleft, ?_⟩
  · exact {
      inv := h.inv.engineStep hstep
      running := hphase.trans h.running
      encodable := hcoding ▸ h.encodable
      span := by
        rw [Token.put_dec]
        dsimp only
        rw [ho, hn, hspan]
      describes := by
        rw [Token.put_dec]
        dsimp only
        rw [ho]
        exact h.describes.2
      written := by
        rw [Token.put_dec]
        exact Token.Describes.dstByte_put (s := { s with dec := d }) hdescribes h.inv.memory hspace (by
          dsimp only
          rw [ho]
          exact h.written)
      flags := by
        have hflags := h.flags
        rw [hleft, List.take_succ_cons, HoldsFlags, show s.fw - (left + 1) + 1 = s.fw - left by omega] at hflags
        rw [hfw, Token.put_dec]
        dsimp only
        rw [hdleft, hword]
        exact hflags.2
      streams := fun c => by
        rw [hlayout, hcoding, Token.put_dec, hdleft]
        refine (hrest c).congr ?_ ?_ fun i hi => h.srcByte_eq hstep c i (hlimit c ▸ hi)
        · rw [Token.put_dec]
          cases c <;> rfl
        · rw [Token.put_dec]
          cases c <;> rfl }
  · rw [State.outlook, State.outlook, hvariant, hdst, hlit, hmatch, literalsIn_cons t ts, copiesIn_cons t ts, BitVec.ofNat_add,
      BitVec.ofNat_add, BitVec.add_assoc, BitVec.add_assoc, Token.put_dec]
    dsimp only
    rw [hn]

/-- With no token to come the output is full, and the engine completes the DECODE (R104). -/
theorem Decoding.end_step (h : Decoding src maxLen s []) : engineStep s = .next (s.complete s.dec.n) := by
  obtain ⟨hin, hout⟩ := h.inv.engineInRegions.decode h.running
  exact h.engineStep_eq.trans (decodeStep_of_fullOutput hin hout h.span.ge)

end

/-- The engine alone executes all the tokens to come, and then completes the DECODE (R96, R104, R106). -/
theorem Decoding.run {src : Nat → Byte} {maxLen : Nat} : ∀ {fuel : Nat} {s : State} {ts : List Token},
    Decoding src maxLen s ts → 2 * spanOf ts + (if s.dec.left = 0 then 2 else 1) ≤ fuel →
    ∃ u, Decoding src maxLen u [] ∧ u.outlook [] = s.outlook ts ∧ runEngine fuel s = u.complete u.dec.n
  | 0, s, _, _, hfuel => by
    split at hfuel <;> omega
  | fuel + 1, s, ts, h, hfuel => by
    have hbusy : s.phase ≠ .idle := by simp [h.running]
    cases ts with
    | nil => exact ⟨s, h, rfl, by rw [runEngine_succ hbusy h.end_step, runEngine_idle rfl]⟩
    | cons t ts =>
      cases hleft : s.dec.left with
      | zero =>
        obtain ⟨u, hstep, hu, huleft, houtlook⟩ := h.flagWord_step hleft
        have hpos : u.dec.left ≠ 0 := by
          have hge := s.fw_ge
          omega
        rw [if_pos hleft] at hfuel
        obtain ⟨w, hw, houtlook', hrun⟩ := hu.run (fuel := fuel) (by rw [if_neg hpos]; omega)
        exact ⟨w, hw, houtlook'.trans houtlook, by rw [runEngine_succ hbusy hstep, hrun]⟩
      | succ left =>
        obtain ⟨u, hstep, hu, -, houtlook⟩ := h.token_step hleft
        have hone := h.describes.1.one_le_span
        rw [spanOf, if_neg (by omega)] at hfuel
        obtain ⟨w, hw, houtlook', hrun⟩ := hu.run (fuel := fuel) (by split <;> omega)
        exact ⟨w, hw, houtlook'.trans houtlook, by rw [runEngine_succ hbusy hstep, hrun]⟩

/-- A DECODE with the output empty ends with all its tokens executed (R104, R106). -/
theorem Decoding.finished {src : Nat → Byte} {maxLen : Nat} {s : State} {ts : List Token} (h : Decoding src maxLen s ts)
    (hempty : s.dec.o = 0) :
    ∃ u, Decoding src maxLen u [] ∧ u.outlook [] = s.outlook ts ∧ s.finished = u.complete u.dec.n := by
  have hspan := h.span
  rw [State.finished, engineFuel, h.running]
  refine h.run ?_
  dsimp only
  split <;> omega

end Sys2Proof.Machine

namespace Sys2Proof.Machine

/-! ### The start of a DECODE on a container (R93, R94, R95) -/

/-- A header that passes starts the decoder (R93, R95). -/
theorem startDecode_of_ok {s : State} {n : Nat} (h : headerChecks { s with phase := .runDecode } = .ok n) :
    s.startDecode =
      { s with
        phase := .runDecode
        dec := startDecoder s.layout n (containerField s 8 4) (containerField s 12 4) s.latSrcLen.toNat } := by
  simp only [State.startDecode, h]
  rfl

/-- A DECODE of a container that passes DECODE_HEADER starts with the cursors of its header (R93, R95). -/
theorem HeaderPasses.startDecode {v : Variant} {s : State} (h : HeaderPasses v s) :
    (s.beginCommand (commandWord 2 (codeOfVariant v))).startDecode =
      { s.beginCommand (commandWord 2 (codeOfVariant v)) with
        phase := .runDecode
        dec := startDecoder (layoutOf v) (inputSizeField v s) (inputField s 8) (inputField s 12) s.srcLen.toNat } := by
  obtain ⟨hwhole, hmagic, hnonempty, hbounded, htables, hgroups, hfits⟩ := h
  have haux := (auxLegal_iff (layoutOf v) (inputField s 8) (inputField s 12) s.srcLen.toNat).2 ⟨htables, hgroups⟩
  rw [Config.sizeMax] at hbounded
  have hchecks := headerChecks_beginCommand v s
  rw [if_neg hwhole.not_gt, if_neg (not_not.2 hmagic), if_neg (by omega), haux, if_neg nofun, if_neg hfits.not_gt] at hchecks
  have hlayout : (s.beginCommand (commandWord 2 (codeOfVariant v))).layout = layoutOf v :=
    congrArg layoutOf (beginCommand_commandWord_variant s 2 v)
  rw [startDecode_of_ok hchecks, hlayout]
  rfl

/-- The input registers name a region that holds the bytes `b` (R28). -/
structure State.HoldsInput (s : State) (b : List Byte) : Prop where
  size : s.srcLen.toNat = b.length
  bytes : ∀ i, i < b.length → Memory.read s.mem (s.srcAddr.toNat + i) = b.getD i 0

/-- A header field of the container the input registers name (R48). -/
theorem State.HoldsInput.headerField {s : State} {b : List Byte} (h : s.HoldsInput b) {k : Nat} {x : Word}
    (hk : (b.drop k).take 4 = be32 x) : inputField s k = x.toNat := by
  have hlen : k + 4 ≤ b.length := by
    have hfour := congrArg List.length hk
    rw [List.length_take, List.length_drop, show (be32 x).length = 4 from rfl] at hfour
    omega
  rw [← bigEndian_be32, ← hk]
  refine congrArg bigEndian (List.ext_getElem (by simp; omega) fun i hi _ => ?_)
  rw [List.length_map, List.length_range] at hi
  rw [List.getElem_map, List.getElem_range, h.bytes (k + i) (by omega), List.getElem_take, List.getElem_drop,
    List.getD_eq_getElem]

/-- The decoder starts with the output empty and no flag bit left (R95). -/
theorem startDecoder_start (layout : Layout) (n a1 a2 len : Nat) :
    (startDecoder layout n a1 a2 len).n = n ∧ (startDecoder layout n a1 a2 len).o = 0 ∧
      (startDecoder layout n a1 a2 len).left = 0 := by
  cases layout <;> exact ⟨rfl, rfl, rfl⟩

/-- Where the bytes of a cursor begin in a container (R87, R88, R89). -/
def bodyStart (v : Variant) (ts : List Token) : Cursor → Nat
  | .fp => 16
  | .dp => 16 + (bodyOf v ts .fp).length
  | .bp => 16 + (bodyOf v ts .fp).length + (bodyOf v ts .dp).length

/-- The decoder starts with each cursor's range on the bytes of that cursor; a cursor the layout does not use has none. -/
theorem startDecoder_ranges {v : Variant} {ts : List Token} {n a1 a2 len : Nat}
    (ha1 : layoutOf v = .tables → a1 = bodyStart v ts .dp) (ha2 : layoutOf v ≠ .stream → a2 = bodyStart v ts .bp)
    (hlen : len = bodyStart v ts .bp + (bodyOf v ts .bp).length) (c : Cursor) :
    cursorValue (startDecoder (layoutOf v) n a1 a2 len) c + (bodyOf v ts c).length =
        cursorLimit (startDecoder (layoutOf v) n a1 a2 len) c ∧
      (bodyOf v ts c = [] ∨ cursorValue (startDecoder (layoutOf v) n a1 a2 len) c = bodyStart v ts c) := by
  have hnone {c : Cursor} (hf : c ≠ .fp) (hd : cursorOf (layoutOf v) .d ≠ c) (hy : cursorOf (layoutOf v) .y ≠ c) :
      bodyOf v ts c = [] := bodyBytes_eq_nil hf hd hy _ _ _
  cases hl : layoutOf v with
  | tables =>
    rw [ha1 hl, ha2 (by simp [hl]), hlen]
    cases c <;> exact ⟨rfl, .inr rfl⟩
  | groups =>
    have hdp : bodyOf v ts .dp = [] := hnone nofun (by simp [hl, cursorOf]) (by simp [hl, cursorOf])
    rw [ha2 (by simp [hl]), hlen]
    cases c with
    | fp => exact ⟨by simp [startDecoder, cursorValue, cursorLimit, bodyStart, hdp, Config.hdrLen], .inr rfl⟩
    | dp => exact ⟨by rw [hdp]; rfl, .inl hdp⟩
    | bp => exact ⟨rfl, .inr rfl⟩
  | stream =>
    have hdp : bodyOf v ts .dp = [] := hnone nofun (by simp [hl, cursorOf]) (by simp [hl, cursorOf])
    have hbp : bodyOf v ts .bp = [] := hnone nofun (by simp [hl, cursorOf]) (by simp [hl, cursorOf])
    rw [hlen]
    cases c with
    | fp => exact ⟨by simp [startDecoder, cursorValue, cursorLimit, bodyStart, hdp, hbp, Config.hdrLen], .inr rfl⟩
    | dp => exact ⟨by rw [hdp]; rfl, .inl hdp⟩
    | bp => exact ⟨by rw [hbp]; rfl, .inl hbp⟩

/-- A container's bytes before a cursor's, and those after them. -/
theorem containerOf_split {v : Variant} {ts : List Token} (hwf : ∀ t ∈ ts, (tokenInstr (codingOf v) t).wf = true)
    (w1 len : Word) (c : Cursor) :
    ∃ before after, containerOf v w1 len ts = before ++ (bodyOf v ts c ++ after) ∧ before.length = bodyStart v ts c := by
  have hheader := length_headerOf (layoutOf v) (magicOf v) w1 len (bodyOf v ts .fp).length (bodyOf v ts .dp).length
  rw [containerOf_eq hwf]
  cases c with
  | fp => exact ⟨_, _, rfl, hheader⟩
  | dp => exact ⟨_ ++ _, _, (List.append_assoc ..).symm, by rw [List.length_append, hheader]; rfl⟩
  | bp =>
    refine ⟨headerOf (layoutOf v) (magicOf v) w1 len (bodyOf v ts .fp).length (bodyOf v ts .dp).length ++
      (bodyOf v ts .fp ++ bodyOf v ts .dp), [], by simp only [List.append_assoc, List.append_nil], ?_⟩
    rw [List.length_append, List.length_append, hheader, ← Nat.add_assoc]
    rfl

/-- A container's length is where its last cursor's bytes end (R85). -/
theorem length_containerOf {v : Variant} {ts : List Token} (hwf : ∀ t ∈ ts, (tokenInstr (codingOf v) t).wf = true)
    (w1 len : Word) : (containerOf v w1 len ts).length = bodyStart v ts .bp + (bodyOf v ts .bp).length := by
  rw [containerOf_eq hwf]
  simp only [List.length_append, length_headerOf, bodyStart]
  omega

/-- A container is as long as the fit check takes it to be (R85, R86). -/
theorem length_containerOf_eq_size {v : Variant} {ts : List Token}
    (hwf : ∀ t ∈ ts, (tokenInstr (codingOf v) t).wf = true) (w1 len : Word) :
    (containerOf v w1 len ts).length = containerSizeOf v ts := by
  rw [length_containerOf hwf, containerSizeOf_eq, bodyStart]
  omega

/-- The tokens of a source are well-formed instructions. -/
theorem Describes.wf {src : Nat → Byte} {maxLen : Nat} (coding : Coding) : ∀ {ts : List Token} {c : Nat},
    Describes src maxLen c ts → ∀ t ∈ ts, (tokenInstr coding t).wf = true
  | [], _, _ => nofun
  | _ :: _, _, ⟨ht, hts⟩ => List.forall_mem_cons.2 ⟨ht.wf coding, hts.wf coding⟩

section
variable {v : Variant} {s : State} {ts : List Token} {w1 len : Word}
  (hholds : s.HoldsInput (containerOf v w1 len ts)) (hwf : ∀ t ∈ ts, (tokenInstr (codingOf v) t).wf = true)
include hholds hwf

/-- The header's magic and decoded size (R48, R92). -/
theorem State.HoldsInput.magic_size : inputField s 0 = (magicOf v).toNat ∧ inputSizeField v s = len.toNat := by
  rw [containerOf_eq hwf] at hholds
  refine ⟨hholds.headerField ?_, hholds.headerField ?_⟩
  · cases layoutOf v <;> rfl
  · cases layoutOf v <;> rfl

/-- The header's aux offsets, where the layout has them (R48, R87, R88). -/
theorem State.HoldsInput.aux (hsize : s.srcLen.toNat < 2 ^ 32) :
    (layoutOf v = .tables → inputField s 8 = bodyStart v ts .dp) ∧
      (layoutOf v ≠ .stream → inputField s 12 = bodyStart v ts .bp) := by
  have hlen := hholds.size
  rw [length_containerOf hwf] at hlen
  rw [containerOf_eq hwf] at hholds
  have hdp : bodyStart v ts .dp ≤ bodyStart v ts .bp := Nat.le_add_right _ _
  refine ⟨fun hl => ?_, fun hl => ?_⟩
  · rw [hholds.headerField (k := 8) (x := BitVec.ofNat 32 (bodyStart v ts .dp)) (by rw [hl]; rfl), BitVec.toNat_ofNat,
      Nat.mod_eq_of_lt (by omega)]
  · have hfield (body : List Byte) : ((headerOf (layoutOf v) (magicOf v) w1 len (bodyOf v ts .fp).length
        (bodyOf v ts .dp).length ++ body).drop 12).take 4 = be32 (BitVec.ofNat 32 (bodyStart v ts .bp)) := by
      cases h : layoutOf v with
      | tables => rfl
      | groups => rfl
      | stream => exact absurd h hl
    rw [hholds.headerField (hfield _), BitVec.toNat_ofNat, Nat.mod_eq_of_lt (by omega)]

/-- A container passes DECODE_HEADER, where its source has a legal size and fits the output region (R93). -/
theorem State.HoldsInput.headerPasses (hlen : 1 ≤ len.toNat ∧ len.toNat ≤ Config.sizeMax)
    (hcap : len.toNat ≤ s.dstCap.toNat) : HeaderPasses v s := by
  obtain ⟨hmagic, hsize⟩ := hholds.magic_size hwf
  obtain ⟨ha1, ha2⟩ := hholds.aux hwf s.srcLen.isLt
  have htotal := hholds.size
  rw [length_containerOf hwf] at htotal
  have hdp : 16 ≤ bodyStart v ts .dp := Nat.le_add_right _ _
  have hbp : bodyStart v ts .dp ≤ bodyStart v ts .bp := Nat.le_add_right _ _
  exact {
    whole := by omega
    magic := hmagic
    nonempty := hsize ▸ hlen.1
    bounded := hsize ▸ hlen.2
    tables := fun hl => by
      rw [ha1 hl, ha2 (by simp [hl])]
      omega
    groups := fun hl => by
      rw [ha2 (by simp [hl])]
      omega
    fits := hsize ▸ hcap }

/-- A cursor that starts on its bytes of a container has them as its rest (R94, R95). -/
theorem State.HoldsInput.rest {t : State} (hsrc : ∀ i, t.srcByte i = Memory.read s.mem (s.srcAddr.toNat + i)) {c : Cursor}
    (hends : cursorValue t.dec c + (bodyOf v ts c).length = cursorLimit t.dec c)
    (hstart : bodyOf v ts c = [] ∨ cursorValue t.dec c = bodyStart v ts c) : t.Rest c (bodyOf v ts c) := by
  refine ⟨⟨hends.le, fun k hk => ?_⟩, hends⟩
  have hvalue := hstart.resolve_left (List.ne_nil_of_length_pos (Nat.zero_lt_of_lt hk))
  obtain ⟨before, after, heq, hbefore⟩ := containerOf_split hwf w1 len c
  rw [heq] at hholds
  rw [hsrc, hvalue, ← hbefore, hholds.bytes _ (by simp only [List.length_append]; omega),
    List.getD_append_right _ _ _ _ (Nat.le_add_right _ _), Nat.add_sub_cancel_left, List.getD_append _ _ _ _ hk]

end

/-- A DECODE of the container of tokens that describe a source starts with these tokens to come (R95, R106). -/
theorem decoding_of_holdsInput {v : Variant} {s : State} {ts : List Token} {w1 len : Word} {src : Nat → Byte} {maxLen : Nat}
    (hinv : Inv s) (hb : s.busy = false) (hregions : RegionsStart s) (hholds : s.HoldsInput (containerOf v w1 len ts))
    (hlen : 1 ≤ len.toNat ∧ len.toNat ≤ Config.sizeMax) (hcap : len.toNat ≤ s.dstCap.toNat)
    (hdescribes : Describes src maxLen 0 ts) (hspan : spanOf ts = len.toNat) (hmax : maxLen ≤ codingMax (codingOf v)) :
    Decoding src maxLen (s.writeCmd (commandWord 2 (codeOfVariant v))) ts ∧
      (s.writeCmd (commandWord 2 (codeOfVariant v))).dec.o = 0 ∧
      (s.writeCmd (commandWord 2 (codeOfVariant v))).outlook ts =
        (v, s.dstAddr, len.toNat, BitVec.ofNat 32 (literalsIn ts), BitVec.ofNat 32 (copiesIn ts)) := by
  have hwf := hdescribes.wf (codingOf v)
  have hinv' := hinv.writeCmd (commandWord 2 (codeOfVariant v))
  rw [hregions.writeCmd_decode hb, (hholds.headerPasses hwf hlen hcap).startDecode] at hinv' ⊢
  have hv := beginCommand_commandWord_variant s 2 v
  obtain ⟨hmagic, hsize⟩ := hholds.magic_size hwf
  obtain ⟨ha1, ha2⟩ := hholds.aux hwf s.srcLen.isLt
  have hranges := startDecoder_ranges (n := inputSizeField v s) ha1 ha2 (hholds.size.trans (length_containerOf hwf _ _))
  obtain ⟨hn, ho, hleft⟩ :=
    startDecoder_start (layoutOf v) (inputSizeField v s) (inputField s 8) (inputField s 12) s.srcLen.toNat
  generalize startDecoder (layoutOf v) (inputSizeField v s) (inputField s 8) (inputField s 12) s.srcLen.toNat = d at *
  refine ⟨?_, ho, ?_⟩
  · exact {
      inv := hinv'
      running := rfl
      encodable := hmax.trans_eq (congrArg (fun v => codingMax (codingOf v)) hv.symm)
      span := by
        dsimp only
        rw [ho, hn, hsize, hspan, Nat.zero_add]
      describes := by
        dsimp only
        rw [ho]
        exact hdescribes
      written := by
        dsimp only
        rw [ho]
        exact nofun
      flags := by
        dsimp only
        rw [hleft]
        trivial
      streams := fun c => by
        obtain ⟨hends, hstart⟩ := hranges c
        have hrest := hholds.rest hwf (t := { s.beginCommand (commandWord 2 (codeOfVariant v)) with
          phase := .runDecode, dec := d }) (fun _ => rfl) hends hstart
        have hbody : bodyBytes (layoutOf (s.beginCommand (commandWord 2 (codeOfVariant v))).variant)
            (codingOf (s.beginCommand (commandWord 2 (codeOfVariant v))).variant) c d.left ts = bodyOf v ts c := by
          rw [hv, hleft]
          rfl
        exact hbody ▸ hrest }
  · rw [State.outlook]
    dsimp only
    rw [hv, hn, hsize]
    simp [State.beginCommand]

/-! ### ENCODE and then DECODE (R106) -/

/-- An ENCODE that completes leaves its container in the output region, for the input registers to name (R90). -/
theorem EncodeCompleted.holdsInput {v : Variant} {ts : List Token} {s w u : State} (h : EncodeCompleted v ts s w)
    (hwf : ∀ t ∈ ts, (tokenInstr (codingOf v) t).wf = true) (hmem : Memory.wf s.mem = true)
    (hregion : s.dstAddr.toNat + s.dstCap.toNat ≤ Config.addressSpace) (humem : u.mem = w.mem)
    (haddr : u.srcAddr = w.dstAddr) (hlen : u.srcLen = w.outLen) :
    u.HoldsInput (containerOf v s.params.groupsHdrW1 s.srcLen ts) := by
  have hsize := length_containerOf_eq_size hwf s.params.groupsHdrW1 s.srcLen
  have hfits := h.fits
  have hcap := s.dstCap.isLt
  refine ⟨?_, fun i hi => ?_⟩
  · rw [hlen, h.outLen, BitVec.toNat_ofNat, Nat.mod_eq_of_lt (by omega), hsize]
  · rw [humem, haddr, h.mem, h.dstAddr, Memory.read_writeBytes_inside _ (by omega) hmem hi]

/-- A variant's longest match is one its coding can encode (R45). -/
theorem maxLenOf_le_codingMax (p : Params) (v : Variant) : maxLenOf p v ≤ codingMax (codingOf v) := by
  unfold maxLenOf
  cases codingOf v with
  | mio => cases h : p.mioMaxLen <;> decide
  | yay => exact le_rfl
  | rvl => exact le_rfl

/-- Settles O60: the container holds the tokens of the source, the DECODE executes them one after the other, and what they
write is the source. -/
theorem decodeReproducesTheSource : Obligations.DecodeReproducesTheSource := by
  intro v s u dst cap hinv hb hregions t hdone hu hregions' hcap w
  have hencoded := hinv.encodeCompleted hb hregions hdone
  have hmax := le_maxLenOf s.params v
  have hdescribes := describes_sourceTokens (fun i => Memory.read s.mem (s.srcAddr.toNat + i)) s.srcLen.toNat hmax
    s.params.mfTie
  have hspan := spanOf_sourceTokens (fun i => Memory.read s.mem (s.srcAddr.toNat + i)) s.srcLen.toNat
    (Nat.le_trans (by decide) hmax) s.params.mfTie
  generalize sourceTokens _ s.srcLen.toNat (maxLenOf s.params v) s.params.mfTie = ts at hencoded hspan hdescribes
  have hinv' : Inv u := hu ▸ (hinv.runCommand (commandWord 1 (codeOfVariant v))).mapHostSide fun x =>
    { x with srcAddr := t.dstAddr, srcLen := t.outLen, dstAddr := dst, dstCap := cap }
  have hidle : u.busy = false := by
    rw [State.busy, hu]
    exact congrArg (BitVec.getLsbD · 0) hdone
  have hholds := hencoded.holdsInput (u := u) (hdescribes.wf _) hinv.memory hregions.output (by rw [hu]) (by rw [hu])
    (by rw [hu])
  obtain ⟨hstart, ho, houtlook⟩ := decoding_of_holdsInput hinv' hidle hregions' hholds
    ⟨hregions.nonempty, hregions.bounded⟩ (by rw [hu]; exact hcap) hdescribes hspan (maxLenOf_le_codingMax s.params v)
  obtain ⟨e, hend, houtlook', hw⟩ := hstart.finished ho
  have hw' : w = e.complete e.dec.n := hw
  rw [houtlook, State.outlook, Prod.mk.injEq, Prod.mk.injEq, Prod.mk.injEq, Prod.mk.injEq] at houtlook'
  obtain ⟨-, hdst, hn, hlit, hmatch⟩ := houtlook'
  have hfull : e.dec.o = e.dec.n := hend.span
  have hends (c : Cursor) : cursorValue e.dec c = cursorLimit e.dec c := (hend.streams c).ends
  rw [hw']
  refine ⟨rfl, ?_, fun i hi => ?_, ?_, ?_, hends .fp, hends .dp, hends .bp⟩
  · change BitVec.ofNat 32 e.dec.n = _
    rw [hn, BitVec.ofNat_toNat, BitVec.setWidth_eq]
  · have hbyte := hend.written i (by omega)
    rw [State.dstByte, hdst, hu] at hbyte
    exact hbyte
  · exact (BitVec.add_zero _).symm.trans (hlit.trans hencoded.literals.symm)
  · exact (BitVec.add_zero _).symm.trans (hmatch.trans hencoded.copies.symm)

end Sys2Proof.Machine

/-! ## The commands (spec/45_commands.md) -/

namespace Sys2Proof.Machine

/-! ### The fields of a command word as numbers (R46) -/

/-- The OP field as a number. -/
theorem toNat_cmdOp (w : Word) : (cmdOp w).toNat = w.toNat % 16 := by
  simp [cmdOp]

/-- The VARIANT field as a number. -/
theorem toNat_cmdVariant (w : Word) : (cmdVariant w).toNat = w.toNat / 16 % 16 := by
  rw [cmdVariant, BitVec.extractLsb'_toNat, Nat.shiftRight_eq_div_pow]

/-- Which words have their reserved bits 0. -/
theorem cmdReserved_eq_zero_iff (w : Word) : cmdReserved w = 0 ↔ w.toNat / 256 = 0 := by
  have := w.isLt
  rw [← BitVec.toNat_inj, cmdReserved, BitVec.extractLsb'_toNat, Nat.shiftRight_eq_div_pow]
  change _ = 0 ↔ _
  omega

/-- Which words are CLEAR's. -/
theorem isClear_iff (w : Word) : cmdOp w = 0 ∧ cmdReserved w = 0 ↔ w.toNat % 16 = 0 ∧ w.toNat / 256 = 0 := by
  rw [cmdReserved_eq_zero_iff, ← toNat_cmdOp, ← BitVec.toNat_inj]
  rfl

/-! ### A write of a word to CMD (R108, R109, R110) -/

/-- An ENCODE command's meaning is the write of its word to CMD (R46, R108). -/
theorem exec_encodeOf (v : Variant) (s : State) :
    exec (.encodeOf v) s = .next (s.writeCmd (commandWord 1 (codeOfVariant v))) := by
  cases v <;> rfl

/-- A word written to CMD does what R108 says of it, whether or not it is an instruction (R47, R111). -/
theorem commandWrite_eq_writeCmd (w : Word) (s : State) : commandWrite w s = .next (s.writeCmd w) := by
  unfold commandWrite
  cases hdecode : decodeCommand w with
  | error e => rfl
  | ok i =>
    rcases decodeCommand_cases hdecode with ⟨code, rfl, rfl⟩ | ⟨v, rfl, rfl⟩ | ⟨v, rfl, rfl⟩
    · rfl
    · exact exec_encodeOf v s
    · exact exec_decodeOf v s

/-- The kinds of command (R46). -/
theorem tokenOf_eq_none_cases {i : Instr} (h : tokenOf i = none) :
    (∃ code, i = .clear code) ∨ (∃ v, i = .encodeOf v) ∨ ∃ v, i = .decodeOf v := by
  cases i with
  | clear code => exact .inl ⟨code, rfl⟩
  | encodeMio0 => exact .inr (.inl ⟨.mio0, rfl⟩)
  | encodeSmsr00 => exact .inr (.inl ⟨.smsr00, rfl⟩)
  | encodeYay0 => exact .inr (.inl ⟨.yay0, rfl⟩)
  | encodeYaz0 => exact .inr (.inl ⟨.yaz0, rfl⟩)
  | encodeRvl0 => exact .inr (.inl ⟨.rvl0, rfl⟩)
  | decodeMio0 => exact .inr (.inr ⟨.mio0, rfl⟩)
  | decodeSmsr00 => exact .inr (.inr ⟨.smsr00, rfl⟩)
  | decodeYay0 => exact .inr (.inr ⟨.yay0, rfl⟩)
  | decodeYaz0 => exact .inr (.inr ⟨.yaz0, rfl⟩)
  | decodeRvl0 => exact .inr (.inr ⟨.rvl0, rfl⟩)
  | lit | matchMio | matchYayS | matchYayL | matchRvlS | matchRvlM | matchRvlL => cases h

/-- Every command has a word (R46). -/
theorem exists_decodeCommand {i : Instr} (h : tokenOf i = none) : ∃ w, decodeCommand w = .ok i := by
  rcases tokenOf_eq_none_cases h with ⟨code, rfl⟩ | ⟨v, rfl⟩ | ⟨v, rfl⟩
  · exact ⟨_, decodeCommand_clear code⟩
  · exact ⟨_, decodeCommand_encodeOf v⟩
  · exact ⟨_, decodeCommand_decodeOf v⟩

/-- A command's meaning is the write of its word to CMD (R46, R108). -/
theorem exec_of_decodeCommand {w : Word} {i : Instr} (h : decodeCommand w = .ok i) (s : State) :
    exec i s = .next (s.writeCmd w) := by
  rw [← commandWrite_eq_writeCmd, commandWrite, h]

/-- A write to CMD while BUSY = 1 is ignored (R109). -/
theorem State.writeCmd_of_busy {s : State} (hb : s.busy = true) (w : Word) : s.writeCmd w = s := if_pos hb

section
variable {s : State} (hb : s.busy = false)
include hb

/-- CLEAR's word while BUSY = 0 (R110). -/
theorem State.writeCmd_of_clear {w : Word} (hclear : cmdOp w = 0 ∧ cmdReserved w = 0) : s.writeCmd w = s.clearStatus := by
  rw [State.writeCmd, hb, if_neg nofun, if_pos hclear]

/-- A word that is not CLEAR's starts a command while BUSY = 0, and the first check that fails ends it (R108, R111). -/
theorem State.writeCmd_of_startChecks {w : Word} (hclear : ¬(cmdOp w = 0 ∧ cmdReserved w = 0)) {e : ErrorCause}
    (hcheck : (s.beginCommand w).startChecks w = some e) : s.writeCmd w = (s.beginCommand w).errorEntry e := by
  rw [State.writeCmd, hb, if_neg nofun, if_neg hclear, State.checkAndStart, hcheck]

end

/-- A DECODE that starts sets the phase and the decoder, or its header ends it (R113). -/
theorem startDecode_cases (s : State) :
    (∃ e, s.startDecode = s.errorEntry e) ∨ ∃ d, s.startDecode = { s with phase := .runDecode, dec := d } := by
  cases hchecks : headerChecks { s with phase := .runDecode } with
  | error e => exact .inl ⟨e, startDecode_of_error hchecks⟩
  | ok n => exact .inr ⟨_, startDecode_of_ok hchecks⟩

/-! ### START_CHECKS (R111) -/

/-- START_CHECKS on the fields of the word and on the region registers, in R111's order. -/
theorem startChecks_beginCommand (w : Word) (s : State) :
    (s.beginCommand w).startChecks w =
      if 3 ≤ w.toNat % 16 then some .reservedOp
      else if w.toNat / 256 ≠ 0 then some .reservedBits
      else if 5 ≤ w.toNat / 16 % 16 then some .reservedVariant
      else if 0x100000000 < s.srcAddr.toNat + s.srcLen.toNat then some .inputWraps
      else if 0x100000000 < s.dstAddr.toNat + s.dstCap.toNat then some .outputWraps
      else if 0 < s.srcLen.toNat ∧ 0 < s.dstCap.toNat ∧ s.srcAddr.toNat < s.dstAddr.toNat + s.dstCap.toNat ∧
          s.dstAddr.toNat < s.srcAddr.toNat + s.srcLen.toNat then some .regionsOverlap
      else if s.srcLen.toNat = 0 ∨ 0x3FFFFFFF < s.srcLen.toNat then some .inputSize
      else none := by
  have hwraps (base len : Word) : regionLegal base len = false ↔ 0x100000000 < base.toNat + len.toNat := by
    rw [regionLegal, decide_eq_false_iff_not, Nat.not_le, Config.addressSpace]
  have hshare (a l d c : Word) : regionsShare a l d c = true ↔ 0 < l.toNat ∧ 0 < c.toNat ∧
      a.toNat < d.toNat + c.toNat ∧ d.toNat < a.toNat + l.toNat := by
    simp [regionsShare, and_assoc]
  rw [State.startChecks]
  simp only [hwraps, hshare, toNat_cmdOp, toNat_cmdVariant, ne_eq, cmdReserved_eq_zero_iff]
  rfl

/-- What START_CHECKS decides of a word written to CMD: the command ends by the check's error, or passes (R111). -/
def StartOutcome (w : Word) (s : State) : Option ErrorCause → Prop
  | some e => commandWrite w s = .next ((s.beginCommand w).errorEntry e)
  | none => (s.beginCommand w).startChecks w = none

/-- A word that is not CLEAR's, written while BUSY = 0, ends as START_CHECKS decides. -/
theorem startOutcome_startChecks {w : Word} {s : State} (hb : s.busy = false)
    (hclear : ¬(cmdOp w = 0 ∧ cmdReserved w = 0)) : StartOutcome w s ((s.beginCommand w).startChecks w) := by
  cases hchecks : (s.beginCommand w).startChecks w with
  | some e => exact (commandWrite_eq_writeCmd w s).trans (congrArg _ (State.writeCmd_of_startChecks hb hclear hchecks))
  | none => exact hchecks

/-! ### What a write of a word to CMD leaves alone (R108) -/

/-- A word that passes START_CHECKS and is not CLEAR's is an ENCODE's or a DECODE's (R46, R111). -/
theorem commandWord_of_startChecks {w : Word} {s : State} (hclear : ¬(cmdOp w = 0 ∧ cmdReserved w = 0))
    (hchecks : (s.beginCommand w).startChecks w = none) :
    (∃ v, w = commandWord 1 (codeOfVariant v)) ∨ ∃ v, w = commandWord 2 (codeOfVariant v) := by
  have hcode : ∀ code : Nibble, code.toNat < 5 → (variantOfCode code).isSome := by decide
  rw [State.startChecks] at hchecks
  iterate 3 (split at hchecks; · cases hchecks)
  rename_i hop hreserved hvariant
  obtain ⟨v, hv⟩ := Option.isSome_iff_exists.1 (hcode _ (Nat.lt_of_not_le hvariant))
  have hzero := not_not.1 hreserved
  have hw := commandWord_cmdOp_cmdVariant hzero
  have hkind : cmdOp w = 1 ∨ cmdOp w = 2 := by
    have hne : cmdOp w ≠ 0 := fun h => hclear ⟨h, hzero⟩
    bv_omega
  rw [← codeOfVariant_of_variantOfCode hv] at hw
  exact hkind.imp (fun h => ⟨v, by rw [← hw, h]⟩) fun h => ⟨v, by rw [← hw, h]⟩

/-- A write to CMD changes no register of the host's, no parameter, no memory and no state of the match finder (R108,
R110). -/
theorem State.writeCmd_eq (w : Word) (s : State) :
    s.writeCmd w =
      { s.writeCmd w with
        srcAddr := s.srcAddr, srcLen := s.srcLen, dstAddr := s.dstAddr, dstCap := s.dstCap, seed := s.seed, skip := s.skip
        mem := s.mem, params := s.params, host := s.host, readData := s.readData, fresh := s.fresh } := by
  rcases writeCmd_cases w s with ⟨-, hw⟩ | ⟨-, -, -, hw⟩ | ⟨-, -, ⟨e, -, hw⟩ | ⟨-, -, hw⟩ | ⟨-, -, hw⟩⟩
  · rw [hw]
  · rw [hw]; rfl
  · rw [hw]; rfl
  · rw [hw]; rfl
  · rcases startDecode_cases (s.beginCommand w) with ⟨e, hd⟩ | ⟨d, hd⟩ <;> rw [hw, hd] <;> rfl

/-- A write to CMD of another OP than ENCODE's leaves the encoder alone (R75). -/
theorem State.writeCmd_enc {w : Word} {s : State} (h : cmdOp w ≠ 1) : (s.writeCmd w).enc = s.enc := by
  rcases writeCmd_cases w s with ⟨-, hw⟩ | ⟨-, -, -, hw⟩ | ⟨-, -, ⟨e, -, hw⟩ | ⟨-, hop, -⟩ | ⟨-, -, hw⟩⟩
  · rw [hw]
  · rw [hw]; rfl
  · rw [hw]; rfl
  · exact absurd hop h
  · rcases startDecode_cases (s.beginCommand w) with ⟨e, hd⟩ | ⟨d, hd⟩ <;> rw [hw, hd] <;> rfl

/-- A write to CMD of another OP than DECODE's leaves the decoder alone (R94). -/
theorem State.writeCmd_dec {w : Word} {s : State} (h : cmdOp w ≠ 2) : (s.writeCmd w).dec = s.dec := by
  rcases writeCmd_cases w s with
    ⟨-, hw⟩ | ⟨-, -, -, hw⟩ | ⟨-, hclear, ⟨e, -, hw⟩ | ⟨-, -, hw⟩ | ⟨hchecks, hop, -⟩⟩
  · rw [hw]
  · rw [hw]; rfl
  · rw [hw]; rfl
  · rw [hw]; rfl
  · rcases commandWord_of_startChecks hclear hchecks with ⟨v, rfl⟩ | ⟨v, rfl⟩
    · exact absurd (cmdOp_commandWord 1 _) hop
    · exact absurd (cmdOp_commandWord 2 _) h

/-! ### The obligations on the start of a command -/

/-- Settles O7: a write to CMD while BUSY = 1 is ignored, and as a step it is the host's next operation. -/
theorem busyCommandWriteIsIgnored : Obligations.BusyCommandWriteIsIgnored := by
  intro w s rest hb
  have hignored {t : State} (ht : t.busy = true) : commandWrite w t = .next t := by
    rw [commandWrite_eq_writeCmd, State.writeCmd_of_busy ht]
  refine ⟨hignored hb, fun hhost => ?_⟩
  rw [step_of_opWR hhost (by decide), if_pos rfl]
  exact hignored hb

/-- Settles O10: each branch of R111's order is one outcome of START_CHECKS. -/
theorem startChecksInOrder : Obligations.StartChecksInOrder := by
  intro w s hb hnotClear ends
  have houtcome := startOutcome_startChecks (w := w) hb fun h => by
    have := (isClear_iff w).1 h
    omega
  rw [startChecks_beginCommand] at houtcome
  simp only [apply_ite (StartOutcome w s)] at houtcome
  exact houtcome

/-- Settles O6: CLEAR's word is ignored or clears, and with a reserved bit set it fails START_CHECKS. -/
theorem clearResetsTheStatusRegisters : Obligations.ClearResetsTheStatusRegisters := by
  refine ⟨fun code s hb => ?_, fun code s hb => ?_, fun code => ?_, fun w s hb hop hreserved => ?_⟩
  · exact congrArg Host.Outcome.next (State.writeCmd_of_clear hb (w := commandWord 0 code) (by simp))
  · exact congrArg Host.Outcome.next (State.writeCmd_of_busy hb (commandWord 0 code))
  · have hword : BitVec.ofNat 32 (16 * code.toNat) = commandWord 0 code := by
      have := code.isLt
      rw [← commandWord_cmdOp_cmdVariant (w := BitVec.ofNat 32 (16 * code.toNat))]
      · congr 1 <;> apply BitVec.eq_of_toNat_eq
        · rw [toNat_cmdOp, BitVec.toNat_ofNat]
          change _ = 0
          omega
        · rw [toNat_cmdVariant, BitVec.toNat_ofNat]
          omega
      · rw [cmdReserved_eq_zero_iff, BitVec.toNat_ofNat]
        omega
    rw [hword, decodeCommand_clear]
  · have hends := startChecksInOrder w s hb (.inr hreserved)
    rwa [if_neg (by omega), if_pos hreserved] at hends

/-- Settles O8: an ENCODE that passes START_CHECKS starts. -/
theorem encodeCommandsStart : Obligations.EncodeCommandsStart := by
  intro i v s hmem hb hregions
  obtain rfl : i = .encodeOf v := by
    simp only [List.mem_cons, Prod.mk.injEq, List.not_mem_nil, or_false] at hmem
    rcases hmem with ⟨rfl, rfl⟩ | ⟨rfl, rfl⟩ | ⟨rfl, rfl⟩ | ⟨rfl, rfl⟩ | ⟨rfl, rfl⟩ <;> rfl
  rw [exec_encodeOf, hregions.writeCmd_encode hb, State.beginCommand, cmdVariant_commandWord, variantOfCode_codeOfVariant]
  rfl

/-- Settles O9: a DECODE that passes START_CHECKS and DECODE_HEADER starts, with the cursors of its layout. -/
theorem decodeCommandsStart : Obligations.DecodeCommandsStart := by
  intro i v s hmem hb hregions hheader
  obtain rfl : i = .decodeOf v := by
    simp only [List.mem_cons, Prod.mk.injEq, List.not_mem_nil, or_false] at hmem
    rcases hmem with ⟨rfl, rfl⟩ | ⟨rfl, rfl⟩ | ⟨rfl, rfl⟩ | ⟨rfl, rfl⟩ | ⟨rfl, rfl⟩ <;> rfl
  rw [exec_decodeOf, hregions.writeCmd_decode hb, hheader.startDecode, State.beginCommand, cmdVariant_commandWord,
    variantOfCode_codeOfVariant, inputSizeField]
  cases layoutOf v <;> rfl

/-- Settles O12: a command writes its word to CMD, which leaves the rest alone. -/
theorem commandFrame : Obligations.CommandFrame := by
  intro i s t htok hstep
  obtain ⟨w, hdecode⟩ := exists_decodeCommand htok
  cases (exec_of_decodeCommand hdecode s).symm.trans hstep
  have henc (h : ∀ v, i ≠ .encodeOf v) : cmdOp w ≠ 1 := by
    rcases decodeCommand_cases hdecode with ⟨code, rfl, -⟩ | ⟨v, -, hi⟩ | ⟨v, rfl, -⟩
    · simp
    · exact absurd hi (h v)
    · simp
  have hdec (h : ∀ v, i ≠ .decodeOf v) : cmdOp w ≠ 2 := by
    rcases decodeCommand_cases hdecode with ⟨code, rfl, -⟩ | ⟨v, rfl, -⟩ | ⟨v, -, hi⟩
    · simp
    · simp
    · exact absurd hi (h v)
  have hkeeps := s.writeCmd_eq w
  refine ⟨?_, ?_, ?_, ?_, ?_, ?_, ?_, ?_, ?_, ?_, ?_, fun h => State.writeCmd_enc (henc h), fun h => State.writeCmd_dec (hdec h)⟩
  all_goals rw [hkeeps]

end Sys2Proof.Machine

/-! ## A whole ENCODE (R112) -/

namespace Sys2Proof.Machine

/-! ### Where a token sequence raises (R60, R124 item 3) -/

/-- No buffer holds more than its capacity (R60). -/
structure BuffersFit (s : State) : Prop where
  flags : s.flags.length ≤ s.params.flagsCap.toNat
  dict : s.dict.length ≤ s.params.dictCap.toNat
  bytes : s.bytes.length ≤ s.params.bytesCap.toNat

/-- Tokens that raise nothing leave no buffer over its capacity. -/
theorem BuffersFit.foldl_afterToken : ∀ {ts : List Token} {s : State}, BuffersFit s → roundRaises s ts = none →
    BuffersFit (ts.foldl afterToken s)
  | [], _, h, _ => h
  | t :: ts, s, h, hfits => by
    rw [roundRaises] at hfits
    cases ht : tokenRaises s t with
    | some e => simp [ht] at hfits
    | none =>
      obtain ⟨hdict, hbytes, hflags⟩ := tokenRaises_none_room ht
      have hnext : BuffersFit (afterToken s t) :=
        ⟨recordFlag_length_le h.flags hflags t, by simpa [afterToken_dict] using hdict,
          by simpa [afterToken_bytes] using hbytes⟩
      exact hnext.foldl_afterToken (by simpa [ht] using hfits)

/-- A sequence in two parts raises where the first part does, or else where the second does after the first. -/
theorem roundRaises_append (ts us : List Token) (s : State) :
    roundRaises s (ts ++ us) =
      (roundRaises s ts).or ((roundRaises (ts.foldl afterToken s) us).map fun p => (p.1, ts ++ p.2)) := by
  induction ts generalizing s with
  | nil => simp [roundRaises]
  | cons t ts ih =>
    rw [List.cons_append, roundRaises, roundRaises, List.foldl_cons]
    cases tokenRaises s t with
    | some e => rfl
    | none =>
      dsimp only
      rw [ih, Option.map_or, Option.map_map]
      rfl

/-- The state `x` with the streams, the token encoder, the variant and the parameters of `s`: all that an append depends on
(R60). -/
def State.withStreamsOf (x s : State) : State :=
  { x with params := s.params, variant := s.variant, flags := s.flags, dict := s.dict, bytes := s.bytes, enc := s.enc }

/-- Where a sequence raises depends on the streams, the encoder, the variant and the parameters alone. -/
theorem roundRaises_withStreamsOf : ∀ (ts : List Token) (x s : State),
    roundRaises (x.withStreamsOf s) ts = roundRaises s ts
  | [], _, _ => rfl
  | t :: ts, x, s => by
    have hrest := roundRaises_withStreamsOf ts (afterToken (x.withStreamsOf s) t) (afterToken s t)
    rw [roundRaises, roundRaises, ← hrest]
    rfl

/-- The tokens of a group leave a flag word, or a part of one, for every FW of them (R49). -/
theorem length_le_flagWordsFrom {fw : Nat} (ts : List Token) {acc : Word} {n : Nat} (hn : n < fw) :
    n + ts.length ≤ fw * (flagWordsFrom fw acc n ts).length := by
  induction ts generalizing acc n with
  | nil =>
    rw [flagWordsFrom]
    split
    · simp [*]
    · simpa using hn.le
  | cons t ts ih =>
    rw [flagWordsFrom_cons, List.length_cons]
    split
    · have hnext := ih (acc := 0) (n := 0) (by omega)
      rw [List.length_cons, Nat.mul_succ]
      omega
    · have hnext := ih (acc := withFlag fw acc n t) (n := n + 1) (by omega)
      omega

/-! ### The rounds of an ENCODE (R76) -/

/-- An ENCODE in state `s` has ended in `w` with the error `e`, raised after the tokens `completed` (R122, R123). -/
def RaisesFrom (s : State) (e : ErrorCause) (completed : List Token) (w : State) : Prop :=
  ∃ t u, EncodedFrom s completed t ∧ SameButStreams t u ∧ w = u.errorEntry e

/-- The registers after an ENCODE that ended with an error. -/
theorem RaisesFrom.encodeEndedBy {s w : State} {e : ErrorCause} {completed : List Token} (h : RaisesFrom s e completed w) :
    EncodeEndedBy e completed s w := by
  obtain ⟨_, u, ⟨seed, skip, rfl⟩, hsame, rfl⟩ := h
  rw [← foldl_afterToken_State_withFinder] at hsame
  exact encodeEndedBy_errorEntry hsame e

/-- The end of an ENCODE leaves the engine idle, completed or by an error (R112, R122). -/
theorem settle_finishEncode_phase (s : State) : (settle (finishEncode s)).phase = .idle := by
  rcases finishEncode_cases s with ⟨e, t, hfin, -⟩ | ⟨t, hfin, -⟩ <;> rw [hfin] <;> rfl

section
variable {s t : State} {ts : List Token} (h : EncodedFrom s ts t)
include h

/-- Where tokens to come raise does not depend on the match finder's state. -/
theorem EncodedFrom.roundRaises (us : List Token) :
    Machine.roundRaises t us = Machine.roundRaises (ts.foldl afterToken s) us := by
  obtain ⟨seed, skip, rfl⟩ := h
  exact roundRaises_withFinder seed skip us _

/-- Emitted tokens leave the latched regions alone. -/
theorem EncodedFrom.regionsLegal : t.regionsLegal = s.regionsLegal := by
  obtain ⟨seed, skip, rfl⟩ := h
  rw [foldl_afterToken]
  rfl

/-- Emitted tokens that raise nothing leave no buffer over its capacity. -/
theorem EncodedFrom.buffersFit (hfit : BuffersFit s) (hnone : Machine.roundRaises s ts = none) : BuffersFit t := by
  obtain ⟨seed, skip, rfl⟩ := h
  exact { hfit.foldl_afterToken hnone with }

end

section
variable {s : State} (hp : s.phase = .runEncode) (hlegal : s.regionsLegal = true)
include hp hlegal

/-- With the source encoded, the engine's step ends the ENCODE (R112). -/
theorem engineStep_of_sourceEncoded (hc : ¬s.enc.c < s.latSrcLen.toNat) :
    engineStep s = .next (settle (finishEncode s)) := by
  rw [engineStep_encode hp, encodeStep, hlegal, if_neg nofun, if_neg hc]

variable (hc : s.enc.c < s.latSrcLen.toNat)
include hc

/-- With source bytes left, the engine's step is a round (R76). -/
theorem engineStep_of_sourceLeft : engineStep s = .next (settle (emitTokens s.nextTokens s.noteFinds)) := by
  rw [engineStep_encode hp, encodeStep, hlegal, if_neg nofun, if_pos hc, encodeRound]

/-- A round that raises nothing is emitted (R76). -/
theorem engineStep_of_roundFits (hnone : roundRaises s s.nextTokens = none) :
    ∃ t, engineStep s = .next t ∧ EncodedFrom s s.nextTokens t := by
  refine ⟨_, ?_, encodedFrom_noteFinds s s.nextTokens⟩
  rw [engineStep_of_sourceLeft hp hlegal hc, emitTokens_fits ((roundRaises_noteFinds s _).trans hnone), settle]

/-- A round that raises ends the ENCODE (R76, R122). -/
theorem engineStep_of_roundRaises (hfit : BuffersFit s) {e : ErrorCause} {completed : List Token}
    (hsome : roundRaises s s.nextTokens = some (e, completed)) :
    ∃ t, engineStep s = .next t ∧ t.phase = .idle ∧ RaisesFrom s e completed t := by
  have hfit' : BuffersFit s.noteFinds := by
    rw [State.noteFinds_eq]
    exact { hfit with }
  obtain ⟨u, hu, hstreams⟩ := emitTokens_raises hfit'.dict hfit'.bytes ((roundRaises_noteFinds s _).trans hsome)
  refine ⟨u.errorEntry e, ?_, rfl, _, u, encodedFrom_noteFinds s completed, hstreams, rfl⟩
  rw [engineStep_of_sourceLeft hp hlegal hc, hu, settle]

end

/-- The engine alone emits the tokens from the cursor on and ends the ENCODE, or ends it with the error of the first of them
that raises (R76, R84, R112, R124). -/
theorem runEngine_encode : ∀ {fuel : Nat} {s : State}, s.phase = .runEncode → s.regionsLegal = true → BuffersFit s →
    s.latSrcLen.toNat - s.enc.c ≤ fuel →
    let ts := tokensFrom s.srcByte s.latSrcLen.toNat s.maxLen s.params.mfTie fuel s.enc.c
    (roundRaises s ts = none → ∃ u, EncodedFrom s ts u ∧ runEngine (fuel + 1) s = settle (finishEncode u)) ∧
    ∀ e completed, roundRaises s ts = some (e, completed) → RaisesFrom s e completed (runEngine (fuel + 1) s)
  | fuel, s, hp, hlegal, hfit, hfuel => by
    have hbusy : s.phase ≠ .idle := by simp [hp]
    by_cases hc : s.enc.c < s.latSrcLen.toNat
    · obtain ⟨fuel, rfl⟩ := Nat.exists_eq_succ_of_ne_zero (by omega : fuel ≠ 0)
      rw [tokensFrom, if_pos hc]
      change (roundRaises s (s.nextTokens ++ _) = none → _) ∧ ∀ e completed, roundRaises s (s.nextTokens ++ _) = _ → _
      rw [roundRaises_append]
      cases hr : roundRaises s s.nextTokens with
      | some raised =>
        obtain ⟨t, hstep, hidle, hraises⟩ := engineStep_of_roundRaises hp hlegal hc hfit (e := raised.1) hr
        rw [runEngine_succ hbusy hstep, runEngine_idle hidle]
        refine ⟨nofun, fun e completed h => ?_⟩
        cases h
        exact hraises
      | none =>
        obtain ⟨t, hstep, hencoded⟩ := engineStep_of_roundFits hp hlegal hc hr
        obtain ⟨hsrc, hlen, hmax, hparams, hphase, hcursor⟩ := hencoded.fields
        have hmaxLen : 17 ≤ s.maxLen := le_maxLenOf s.params s.variant
        have hspan : 1 ≤ spanOf s.nextTokens :=
          (decideTokens_cover hc (by omega) (find_len_le s.srcByte _ (by omega) s.params.mfTie) s.srcByte).1
        obtain ⟨hfits, hraises⟩ := runEngine_encode (hphase.trans hp) (hencoded.regionsLegal.trans hlegal)
          (hencoded.buffersFit hfit hr) (by rw [hlen, hcursor]; omega : _ ≤ fuel)
        rw [hsrc, hlen, hmax, hparams, hcursor, hencoded.roundRaises] at hfits hraises
        rw [runEngine_succ hbusy hstep, Option.none_or]
        refine ⟨fun h => ?_, fun e completed h => ?_⟩
        · obtain ⟨u, hu, hend⟩ := hfits (Option.map_eq_none_iff.1 h)
          exact ⟨u, hencoded.append hu, hend⟩
        · obtain ⟨p, hp, heq⟩ := Option.map_eq_some_iff.1 h
          cases heq
          obtain ⟨x, y, hx, hy, hend⟩ := hraises _ _ hp
          exact ⟨x, y, hencoded.append hx, hy, hend⟩
    · have hnone : tokensFrom s.srcByte s.latSrcLen.toNat s.maxLen s.params.mfTie fuel s.enc.c = [] := by
        cases fuel with
        | zero => rfl
        | succ fuel => rw [tokensFrom, if_neg hc]
      rw [runEngine_succ hbusy (engineStep_of_sourceEncoded hp hlegal hc), runEngine_idle (settle_finishEncode_phase s), hnone]
      exact ⟨fun _ => ⟨s, ⟨s.seed, s.skip, rfl⟩, rfl⟩, nofun⟩

/-! ### The end of an ENCODE (R82, R86, R112) -/

/-- The state in which an ENCODE of a variant starts (R75, R112). -/
def State.encodeStart (v : Variant) (s : State) : State :=
  (s.beginCommand (commandWord 1 (codeOfVariant v))).startEncode

/-- The flag words and the streams of an ENCODE whose tokens `ts` have been emitted and whose flags are finished (R82). -/
theorem EncodedFrom.flagWords {v : Variant} {s u : State} {ts : List Token} (h : EncodedFrom (s.encodeStart v) ts u) :
    u.flags ++ (if 0 < u.enc.fbits then [u.enc.facc] else []) = flagWordsFrom (flagWidthOf v) 0 0 ts := by
  obtain ⟨seed, skip, rfl⟩ := h
  have hfw : (s.encodeStart v).fw = flagWidthOf v := congrArg flagWidthOf (beginCommand_commandWord_variant s 1 v)
  rw [foldl_afterToken, hfw]
  exact (foldl_recordFlag ts).trans (List.nil_append _)

section
variable {v : Variant} {s u : State} {ts : List Token} (h : EncodedFrom (s.encodeStart v) ts u)
include h

/-- FINISH_FLAGS raises exactly where FLAGS has no room for all the flag words (R60, R82). -/
theorem EncodedFrom.finishFlags_cases (hfit : BuffersFit u) :
    (s.params.flagsCap.toNat < (flagWordsFrom (flagWidthOf v) 0 0 ts).length ∧
      finishFlags u = .error (.flagsFull, u)) ∨
    ((flagWordsFrom (flagWidthOf v) 0 0 ts).length ≤ s.params.flagsCap.toNat ∧ ∃ t, finishFlags u = .ok t) := by
  have hparams : u.params = s.params := by
    obtain ⟨-, -, -, hparams, -⟩ := h.fields
    exact hparams
  have hflags := hfit.flags
  rw [← h.flagWords, List.length_append, ← hparams, finishFlags_eq]
  split
  · rw [List.length_singleton]
    split
    · exact .inr ⟨by omega, _, rfl⟩
    · exact .inl ⟨by omega, rfl⟩
  · exact .inr ⟨hflags, u, rfl⟩

/-- The size of the container of the emitted tokens, and the room for it (R85, R86). -/
theorem EncodedFrom.containerSize {t : State} (hfin : finishFlags u = .ok t) :
    t.containerSize = containerSizeOf v ts ∧ t.latDstCap = s.dstCap := by
  have hflags := h.flagWords
  obtain ⟨ht, -⟩ := finishFlags_ok hfin
  obtain ⟨seed, skip, rfl⟩ := h
  have hv : (s.encodeStart v).variant = v := beginCommand_commandWord_variant s 1 v
  rw [hflags, foldl_afterToken] at ht
  rw [ht]
  refine ⟨?_, rfl⟩
  change assembledSize (layoutOf (s.encodeStart v).variant) _ ([] ++ dictOf (codingOf (s.encodeStart v).variant) ts)
    ([] ++ bytesOf (codingOf (s.encodeStart v).variant) ts) = _
  rw [hv]
  rfl

/-- Past the tokens, an ENCODE ends with AllocationFailure 1 or 4, or completes (R82, R86, R112). -/
theorem EncodedFrom.finish_cases (hfit : BuffersFit u) :
    (s.params.flagsCap.toNat < (flagWordsFrom (flagWidthOf v) 0 0 ts).length ∧
      RaisesFrom (s.encodeStart v) .flagsFull ts (settle (finishEncode u))) ∨
    ((flagWordsFrom (flagWidthOf v) 0 0 ts).length ≤ s.params.flagsCap.toNat ∧
      ((s.dstCap.toNat < containerSizeOf v ts ∧
          RaisesFrom (s.encodeStart v) .containerTooBig ts (settle (finishEncode u))) ∨
        (containerSizeOf v ts ≤ s.dstCap.toNat ∧ CompletesFrom u (settle (finishEncode u))))) := by
  rcases h.finishFlags_cases hfit with ⟨hfull, hraise⟩ | ⟨hroom, t, hfin⟩
  · refine .inl ⟨hfull, u, u, h, .refl u, ?_⟩
    rw [finishEncode, hraise, settle]
  · obtain ⟨hsize, hcap⟩ := h.containerSize hfin
    rw [← hsize, ← hcap, finishEncode_of_finishFlags hfin]
    refine .inr ⟨hroom, ?_⟩
    split
    · exact .inl ⟨‹_›, u, t, h, sameButStreams_of_finishFlags hfin, rfl⟩
    · exact .inr ⟨Nat.le_of_not_lt ‹_›, t, hfin, Nat.le_of_not_lt ‹_›, rfl⟩

end

/-! ### What an ENCODE does (R112) -/

/-- A running ENCODE with nothing emitted, of a variant under parameters. -/
def freshEncoder (p : Params) (v : Variant) : State := { State.reset with params := p, variant := v }

/-- The error an ENCODE of the tokens `ts` into `cap` bytes ends with, if any, and the tokens completed before it: the first
append that raises, or FINISH_FLAGS, or the fit check (R124 item 3). -/
def encodeFailure (p : Params) (v : Variant) (cap : Nat) (ts : List Token) : Option (ErrorCause × List Token) :=
  (roundRaises (freshEncoder p v) ts).or
    (if p.flagsCap.toNat < (flagWordsFrom (flagWidthOf v) 0 0 ts).length then some (.flagsFull, ts)
    else if cap < containerSizeOf v ts then some (.containerTooBig, ts)
    else none)

/-- The tokens of the source that the input registers name, for a variant (R84). -/
def State.inputTokens (v : Variant) (s : State) : List Token :=
  sourceTokens (fun i => Memory.read s.mem (s.srcAddr.toNat + i)) s.srcLen.toNat (maxLenOf s.params v) s.params.mfTie

/-- The tokens of the source are well-formed instructions. -/
theorem State.inputTokens_wf (v : Variant) (s : State) : ∀ t ∈ s.inputTokens v, (tokenInstr (codingOf v) t).wf = true :=
  (describes_sourceTokens _ s.srcLen.toNat (le_maxLenOf s.params v) s.params.mfTie).wf (codingOf v)

/-- A token sequence raises in an ENCODE that starts where it raises in a fresh one. -/
theorem roundRaises_encodeStart (v : Variant) (s : State) (ts : List Token) :
    roundRaises (s.encodeStart v) ts = roundRaises (freshEncoder s.params v) ts := by
  have hstreams : s.encodeStart v = (s.encodeStart v).withStreamsOf (freshEncoder s.params v) := by
    rw [State.encodeStart, State.beginCommand, cmdVariant_commandWord, variantOfCode_codeOfVariant]
    rfl
  rw [hstreams, roundRaises_withStreamsOf]

/-- An ENCODE that completes shows DONE alone (R114). -/
theorem CompletesFrom.status {s u w : State} {ts : List Token} (h : CompletesFrom u w) (henc : EncodedFrom s ts u) :
    w.status = statusDone ∧ w.errInfo = s.errInfo := by
  obtain ⟨t, hfin, -, rfl⟩ := h
  obtain ⟨ht, -⟩ := finishFlags_ok hfin
  obtain ⟨seed, skip, rfl⟩ := henc
  refine ⟨rfl, ?_⟩
  rw [ht, foldl_afterToken]
  rfl

/-- How an ENCODE of a variant, started in state `s`, has ended in `w`: with the error `e` after the tokens `completed`, or
completed (R112, R122). -/
def EncodeOutcome (v : Variant) (s w : State) : Option (ErrorCause × List Token) → Prop
  | some (e, completed) => EncodeEndedBy e completed (s.encodeStart v) w
  | none => w.status = statusDone ∧ w.errInfo = 0 ∧ EncodeCompleted v (s.inputTokens v) s w

section
variable {s : State} (hregions : RegionsStart s)
include hregions

/-- An ENCODE that starts passes the engine's check of its regions. -/
theorem RegionsStart.encodeStart_regionsLegal (v : Variant) : (s.encodeStart v).regionsLegal = true := by
  have hin := (regionLegal_iff s.srcAddr s.srcLen).2 hregions.input
  have hout := (regionLegal_iff s.dstAddr s.dstCap).2 hregions.output
  change (regionLegal s.srcAddr s.srcLen && regionLegal s.dstAddr s.dstCap) = true
  rw [hin, hout, Bool.and_self]

/-- An ENCODE that passes the start checks emits the source's tokens, or ends with the error of the first that raises (R108,
R112). -/
theorem RegionsStart.runCommand_encode (hb : s.busy = false) (v : Variant) :
    (roundRaises (freshEncoder s.params v) (s.inputTokens v) = none →
      ∃ u, EncodedFrom (s.encodeStart v) (s.inputTokens v) u ∧ BuffersFit u ∧
        s.runCommand (commandWord 1 (codeOfVariant v)) = settle (finishEncode u)) ∧
    ∀ e completed, roundRaises (freshEncoder s.params v) (s.inputTokens v) = some (e, completed) →
      RaisesFrom (s.encodeStart v) e completed (s.runCommand (commandWord 1 (codeOfVariant v))) := by
  have hfit : BuffersFit (s.encodeStart v) := ⟨Nat.zero_le _, Nat.zero_le _, Nat.zero_le _⟩
  have hrun := runEngine_encode (fuel := s.srcLen.toNat) rfl (hregions.encodeStart_regionsLegal v) hfit le_rfl
  have hmax : (s.encodeStart v).maxLen = maxLenOf s.params v :=
    congrArg (maxLenOf s.params) (beginCommand_commandWord_variant s 1 v)
  rw [hmax] at hrun
  obtain ⟨hfits, hraises⟩ := hrun
  rw [State.runCommand, hregions.writeCmd_encode hb, ← roundRaises_encodeStart]
  refine ⟨fun h => ?_, hraises⟩
  obtain ⟨u, henc, hend⟩ := hfits h
  exact ⟨u, henc, henc.buffersFit hfit h, hend⟩

/-- An ENCODE from its CMD write to its end (R112, R124). -/
theorem RegionsStart.encodeOutcome (hb : s.busy = false) (v : Variant) :
    EncodeOutcome v s (s.runCommand (commandWord 1 (codeOfVariant v)))
      (encodeFailure s.params v s.dstCap.toNat (s.inputTokens v)) := by
  obtain ⟨hfits, hraises⟩ := hregions.runCommand_encode hb v
  rw [encodeFailure]
  cases hr : roundRaises (freshEncoder s.params v) (s.inputTokens v) with
  | some raised => exact (hraises _ _ hr).encodeEndedBy
  | none =>
    obtain ⟨u, henc, hfit, hend⟩ := hfits hr
    rw [hend, Option.none_or]
    rcases henc.finish_cases hfit with ⟨hfull, hw⟩ | ⟨hroom, ⟨hbig, hw⟩ | ⟨hsmall, hw⟩⟩
    · rw [if_pos hfull]
      exact hw.encodeEndedBy
    · rw [if_neg hroom.not_gt, if_pos hbig]
      exact hw.encodeEndedBy
    · rw [if_neg hroom.not_gt, if_neg hsmall.not_gt]
      obtain ⟨hstatus, herr⟩ := hw.status henc
      exact ⟨hstatus, herr, encodeCompleted_of_completesFrom henc hw⟩

end

/-- Where the buffers hold the streams of the tokens, only the fit check can fail (R60, R86). -/
theorem encodeFailure_of_buffersHold {p : Params} {v : Variant} {cap : Nat} {ts : List Token}
    (hflags : (flagWordsFrom (flagWidthOf v) 0 0 ts).length ≤ p.flagsCap.toNat)
    (hdict : (dictOf (codingOf v) ts).length ≤ p.dictCap.toNat)
    (hbytes : (bytesOf (codingOf v) ts).length ≤ p.bytesCap.toNat) :
    encodeFailure p v cap ts = if cap < containerSizeOf v ts then some (.containerTooBig, ts) else none := by
  have hfw : 8 ≤ flagWidthOf v := (freshEncoder p v).fw_ge
  have hlen := length_le_flagWordsFrom (acc := 0) ts (by omega : 0 < flagWidthOf v)
  have hwords := Nat.mul_le_mul_left (flagWidthOf v) hflags
  have hnone : roundRaises (freshEncoder p v) ts = none := by
    refine roundRaises_eq_none ((Nat.zero_add _).trans_le hdict) ((Nat.zero_add _).trans_le hbytes) ?_
    change flagWidthOf v * 0 + 0 + ts.length < flagWidthOf v * (p.flagsCap.toNat + 1)
    rw [Nat.mul_succ]
    omega
  rw [encodeFailure, hnone, Option.none_or, if_neg hflags.not_gt]

/-- Settles O58: only the fit check can fail, and the container has the size it checks. -/
theorem encodeWritesTheContainer : Obligations.EncodeWritesTheContainer := by
  intro v s hb hregions src ts flags dict bytes hflags hdict hbytes size out t
  have hlen : out.length = size := length_containerOf_eq_size (s.inputTokens_wf v) s.params.groupsHdrW1 s.srcLen
  have houtcome := hregions.encodeOutcome hb v
  rw [encodeFailure_of_buffersHold (ts := s.inputTokens v) hflags hdict hbytes] at houtcome
  change EncodeOutcome v s t (if s.dstCap.toNat < size then some (.containerTooBig, ts) else none) at houtcome
  refine ⟨hlen, ?_⟩
  by_cases hbig : s.dstCap.toNat < size
  · rw [if_pos hbig] at houtcome
    obtain ⟨⟨hstatus, herr, hout⟩, -, -, hmem, hlit, hmat⟩ := houtcome
    exact ⟨hlit.trans (BitVec.zero_add _), hmat.trans (BitVec.zero_add _), fun h => absurd hbig h.not_gt,
      fun _ => ⟨hstatus, herr, hout, hmem⟩⟩
  · rw [if_neg hbig] at houtcome
    obtain ⟨hstatus, herr, hdone⟩ := houtcome
    exact ⟨hdone.literals, hdone.copies, fun _ => ⟨hstatus, herr, hdone.outLen, hdone.mem⟩, fun h => absurd h hbig⟩

end Sys2Proof.Machine

/-! ## A command depends on its inputs alone (R115, R137) -/

namespace Sys2Proof.Machine

/-! ### Memories with the same bytes -/

/-- The `n` bytes of `m` from `a` on are those of `m'` from `a'` on. -/
def SameBytes (m : List Host.Cell) (a : Nat) (m' : List Host.Cell) (a' n : Nat) : Prop :=
  ∀ i, i < n → Memory.read m (a + i) = Memory.read m' (a' + i)

section
variable {m m' : List Host.Cell} {a a' n : Nat} (hm : Memory.wf m = true) (hm' : Memory.wf m' = true)
include hm hm'

/-- The same byte written at the same index of both keeps the bytes the same. -/
theorem SameBytes.write (h : SameBytes m a m' a' n) (k : Nat) (v : Byte) :
    SameBytes (Memory.write m (a + k) v) a (Memory.write m' (a' + k) v) a' n := by
  intro i hi
  by_cases hik : i = k
  · rw [hik, Memory.read_write_same hm, Memory.read_write_same hm']
  · rw [Memory.read_write_other (by omega), Memory.read_write_other (by omega), h i hi]

/-- The same sequence written from the same index on keeps the bytes the same. -/
theorem SameBytes.writeBytes (h : SameBytes m a m' a' n) (out : List Byte) {k : Nat}
    (hspace : a + k + out.length ≤ Config.addressSpace) (hspace' : a' + k + out.length ≤ Config.addressSpace) :
    SameBytes (Memory.writeBytes m (a + k) out) a (Memory.writeBytes m' (a' + k) out) a' n := by
  induction out generalizing m m' k with
  | nil => exact h
  | cons v out ih =>
    rw [List.length_cons] at hspace hspace'
    exact ih (k := k + 1) (Memory.write_wf (by omega) hm) (Memory.write_wf (by omega) hm') (h.write hm hm' k v)
      (by omega) (by omega)

/-- COPY of the same indices inside the bytes keeps them the same (R103). -/
theorem SameBytes.copyBytes (h : SameBytes m a m' a' n) {o off len : Nat} (hoff : off < o) (hroom : o + len ≤ n)
    (hspace : a + n ≤ Config.addressSpace) (hspace' : a' + n ≤ Config.addressSpace) :
    SameBytes (copyBytes m a o off len) a (copyBytes m' a' o off len) a' n := by
  induction len generalizing m m' o with
  | zero => exact h
  | succ len ih =>
    have hback (base : Nat) : backReference base o off = base + (o - 1 - off) := by
      rw [backReference]
      omega
    rw [Machine.copyBytes, Machine.copyBytes, hback, hback, h _ (by omega)]
    exact ih (Memory.write_wf (by omega) hm) (Memory.write_wf (by omega) hm') (h.write hm hm' o _) (by omega) (by omega)

end

/-- Memories in canonical form that read the same at every address are equal. -/
theorem Memory.eq_of_read {m m' : List Host.Cell} : ∀ {lo : Nat}, Memory.wfFrom lo m = true → Memory.wfFrom lo m' = true →
    (∀ x, Memory.read m x = Memory.read m' x) → m = m' := by
  -- The entry with the lowest address is the one entry of either memory there, and it is no unlisted byte.
  have hne {lo a b : Nat} {v : Byte} {l l' : List Host.Cell} (hl : Memory.wfFrom lo ((a, v) :: l) = true)
      (hlow : a < b) (hl' : Memory.wfFrom b l' = true) : Memory.read ((a, v) :: l) a ≠ Memory.read l' a := by
    simp only [Memory.wfFrom, Bool.and_eq_true, decide_eq_true_eq] at hl
    rw [Memory.read_below hlow hl', Memory.read, if_pos rfl]
    exact hl.1.2
  induction m generalizing m' with
  | nil =>
    intro lo _ hm' hread
    cases m' with
    | nil => rfl
    | cons c m' =>
      exact absurd (hread c.1).symm (hne (b := c.1 + 1) hm' (Nat.lt_succ_self _) rfl)
  | cons c m ih =>
    obtain ⟨a, v⟩ := c
    intro lo hm hm' hread
    cases m' with
    | nil => exact absurd (hread a) (hne (b := a + 1) hm (Nat.lt_succ_self _) rfl)
    | cons c m' =>
      obtain ⟨b, w⟩ := c
      have htail {lo a : Nat} {v : Byte} {l : List Host.Cell} (hl : Memory.wfFrom lo ((a, v) :: l) = true) :
          Memory.wfFrom (a + 1) l = true ∧ Memory.wfFrom a ((a, v) :: l) = true := by
        simp only [Memory.wfFrom, Bool.and_eq_true, decide_eq_true_eq] at hl ⊢
        exact ⟨hl.2, ⟨⟨le_rfl, hl.1.1.2⟩, hl.1.2⟩, hl.2⟩
      rcases lt_trichotomy a b with hlt | rfl | hlt
      · exact absurd (hread a) (hne hm hlt (htail hm').2)
      · have hv : v = w := by simpa [Memory.read] using hread a
        rw [hv, ih (htail hm).1 (htail hm').1 fun x => ?_]
        by_cases hx : a = x
        · rw [Memory.read_below (by omega) (htail hm).1, Memory.read_below (by omega) (htail hm').1]
        · simpa [Memory.read, Ne.symm hx] using hread x
      · exact absurd (hread b).symm (hne hm' hlt (htail hm).2)

/-! ### The tokens of a source depend on its bytes alone (R72, R84) -/

section
variable {src src' : Nat → Byte} {len maxLen : Nat} (hsrc : ∀ i, i < len → src i = src' i) (hmax : 2 ≤ maxLen) (tie : MfTie)
include hsrc hmax

/-- The tokens from a cursor on depend on the source's bytes alone. -/
theorem tokensFrom_congr : ∀ fuel c : Nat, tokensFrom src' len maxLen tie fuel c = tokensFrom src len maxLen tie fuel c
  | 0, _ => rfl
  | fuel + 1, c => by
    have hfind : find src' len maxLen tie = find src len maxLen tie := funext (find_congr hsrc hmax tie)
    rw [tokensFrom, tokensFrom]
    refine ite_congr rfl (fun hc => ?_) fun _ => rfl
    have hround : decideTokens src' (find src' len maxLen tie) maxLen c =
        decideTokens src (find src len maxLen tie) maxLen c := by
      rw [hfind, decideTokens, decideTokens, hsrc c hc]
    dsimp only
    rw [hround, tokensFrom_congr fuel]

end

end Sys2Proof.Machine

namespace Sys2Proof.Machine

/-! ### A running DECODE in another place -/

/-- The command of `s` in the place of `p`: the same command, with the regions' addresses, the memory, the host side and
the state of the encoder and of the match finder, which no DECODE reads, of `p`. -/
def State.inPlaceOf (p s : State) : State :=
  { p with
    status := s.status, errInfo := s.errInfo, outLen := s.outLen, litCount := s.litCount, matchCount := s.matchCount
    phase := s.phase, variant := s.variant, latSrcLen := s.latSrcLen, latDstCap := s.latDstCap, params := s.params
    flags := s.flags, dict := s.dict, bytes := s.bytes, dec := s.dec }

/-- In the place of `p` the fields of the container inside the cursors' ranges are the same. -/
def SameFields (p s : State) : Prop :=
  ∀ c x w, x + w ≤ cursorLimit s.dec c → containerField (p.inPlaceOf s) x w = containerField s x w

/-- Equal bytes of the input regions are equal fields of the container (R94). -/
theorem sameFields_of_sameBytes {p s : State}
    (hinput : SameBytes s.mem s.latSrcAddr.toNat p.mem p.latSrcAddr.toNat s.latSrcLen.toNat)
    (hdec : DecoderInv s) : SameFields p s := by
  intro c x w hx
  have hlim := hdec.cursorLimit_le c
  refine congrArg bigEndian (List.map_congr_left fun k hk => ?_)
  rw [List.mem_range] at hk
  exact (hinput (x + k) (by omega)).symm

@[simp] theorem State.inPlaceOf_coding (p s : State) : (p.inPlaceOf s).coding = s.coding := rfl
@[simp] theorem State.inPlaceOf_fw (p s : State) : (p.inPlaceOf s).fw = s.fw := rfl

/-- What a read of the decoder answers, with its state in the place of `p`. -/
def readInPlaceOf (p : State) {α : Type} : Except ErrorCause (α × State) → Except ErrorCause (α × State)
  | .ok (x, t) => .ok (x, p.inPlaceOf t)
  | .error e => .error e

section
variable {p s : State} (h : SameFields p s)
include h

/-- A cursor moved has no bearing on the fields. -/
theorem SameFields.setCursor (c : Cursor) (x : Nat) : SameFields p { s with dec := setCursor c x s.dec } := by
  intro c' y w hy
  rw [cursorLimit_setCursor] at hy
  exact h c' y w hy

/-- A flag bit consumed has no bearing on the fields. -/
theorem SameFields.consumeFlag : SameFields p (consumeFlag s) := by
  intro c x w hx
  rw [cursorLimit_consumeFlag] at hx
  exact h c x w hx

/-- A read of a stream is the same in either place (R94). -/
theorem SameFields.readStream (st : InStream) (w : Nat) (e : ErrorCause) :
    readStream st w e (p.inPlaceOf s) = readInPlaceOf p (readStream st w e s) := by
  rcases readStream_cases st w e s with ⟨hlim, hread⟩ | ⟨hlim, hread⟩
  · rw [hread, readStream_overrun (by exact hlim)]
    rfl
  · rw [hread, readStream_of_le (by exact hlim)]
    have hfield := h _ _ _ hlim
    exact congrArg (fun v => Except.ok (v, p.inPlaceOf { s with dec := Machine.setCursor _ _ s.dec })) hfield

/-- The reading of a flag word is the same in either place (R97). -/
theorem SameFields.readFlagWord :
    readFlagWord (p.inPlaceOf s) = (readFlagWord s).map p.inPlaceOf := by
  rw [Machine.readFlagWord, Machine.readFlagWord, State.inPlaceOf_fw, h.readStream]
  cases Machine.readStream .f (s.fw / 8) .flagOverrun s <;> rfl

/-- The reading of a match is the same in either place (R100, R101). -/
theorem SameFields.fetchMatch : fetchMatch (p.inPlaceOf s) = readInPlaceOf p (fetchMatch s) := by
  rw [Machine.fetchMatch, Machine.fetchMatch, State.inPlaceOf_coding, h.readStream]
  cases hdesc : Machine.readStream .d 2 .descriptorOverrun s with
  | error e => rfl
  | ok r =>
    obtain ⟨v, t⟩ := r
    obtain ⟨c, x, rfl⟩ := readStream_ok hdesc
    have hnext := h.setCursor c x
    dsimp only [readInPlaceOf]
    split
    · rfl
    · rw [hnext.readStream]
      cases Machine.readStream .y 1 .extraOverrun _ <;> rfl
    · rw [hnext.readStream]
      cases Machine.readStream .d 2 .extraOverrun _ <;> rfl

/-- The reading of a token is the same in either place (R98 to R101). -/
theorem SameFields.fetchToken : fetchToken (p.inPlaceOf s) = readInPlaceOf p (fetchToken s) := by
  have hflag : Machine.consumeFlag (p.inPlaceOf s) = p.inPlaceOf (Machine.consumeFlag s) := rfl
  rw [Machine.fetchToken, Machine.fetchToken, hflag, apply_ite (readInPlaceOf p), ← h.consumeFlag.fetchMatch]
  refine ite_congr rfl (fun _ => ?_) fun _ => rfl
  rw [fetchLiteral, fetchLiteral, h.consumeFlag.readStream]
  cases Machine.readStream .y 1 .literalOverrun (Machine.consumeFlag s) <;> rfl

end

end Sys2Proof.Machine

namespace Sys2Proof.Machine

/-! ### The same DECODE in two places (R115, R137) -/

/-- A DECODE in two places, running or ended: `t` is the command of `s` in another place, and the output regions hold the
same bytes. -/
structure SameDecode (len : Word) (s t : State) : Prop where
  notEncode : s.phase ≠ .runEncode
  length : s.latSrcLen = len
  place : t = t.inPlaceOf s
  output : SameBytes s.mem s.latDstAddr.toNat t.mem t.latDstAddr.toNat s.latDstCap.toNat

section
variable {len : Word} {s t : State} (h : SameDecode len s t)
include h

/-- What the two places have in common. -/
theorem SameDecode.fields :
    t.phase = s.phase ∧ t.latSrcLen = s.latSrcLen ∧ t.latDstCap = s.latDstCap ∧ t.dec = s.dec := by
  rw [h.place]
  exact ⟨rfl, rfl, rfl, rfl⟩

/-- The error that ends both. -/
theorem SameDecode.errorEntry (e : ErrorCause) : SameDecode len (s.errorEntry e) (t.errorEntry e) :=
  ⟨nofun, h.length, congrArg (State.errorEntry e) h.place, h.output⟩

/-- The completion of both. -/
theorem SameDecode.complete (n : Nat) : SameDecode len (s.complete n) (t.complete n) :=
  ⟨nofun, h.length, congrArg (State.complete n) h.place, h.output⟩

/-- A change of the decoder, the same in both places. -/
theorem SameDecode.withDec (d : Decoder) :
    SameDecode len { s with dec := d } (t.inPlaceOf { s with dec := d }) :=
  ⟨h.notEncode, h.length, rfl, h.output⟩

/-- A literal put in both places (R99). -/
theorem SameDecode.putLiteral (hs : Memory.wf s.mem = true) (ht : Memory.wf t.mem = true) (b : Byte) :
    SameDecode len (s.putLiteral b) (t.putLiteral b) := by
  obtain ⟨-, -, -, hdec⟩ := h.fields
  refine ⟨h.notEncode, h.length, by rw [h.place]; rfl, ?_⟩
  have hout := h.output.write hs ht s.dec.o b
  change SameBytes _ _ (Memory.write t.mem (t.latDstAddr.toNat + t.dec.o) b) _ _
  rw [hdec]
  exact hout

/-- A match put in both places (R100, R103). -/
theorem SameDecode.putMatch (hs : Memory.wf s.mem = true) (ht : Memory.wf t.mem = true) (hready : TokenReady s)
    (hready' : TokenReady t) {n off : Nat} (hoff : off < s.dec.o) (hroom : s.dec.o + n ≤ s.dec.n) :
    SameDecode len (s.putMatch n off) (t.putMatch n off) := by
  obtain ⟨-, -, hcap, hdec⟩ := h.fields
  have hspace := (regionLegal_iff _ _).1 hready.legal
  have hspace' := (regionLegal_iff _ _).1 hready'.legal
  rw [hcap] at hspace'
  refine ⟨h.notEncode, h.length, by rw [h.place]; rfl, ?_⟩
  have hout := h.output.copyBytes hs ht hoff (hroom.trans hready.fits) hspace hspace'
  change SameBytes _ _ (copyBytes t.mem t.latDstAddr.toNat t.dec.o off n) _ _
  rw [hdec]
  exact hout

/-- A match decided in both places by the same check (R100, R102). -/
theorem SameDecode.runMatch (hs : Memory.wf s.mem = true) (ht : Memory.wf t.mem = true) (hready : TokenReady s)
    (hready' : TokenReady t) (n off : Nat) : SameDecode len (s.runMatch n off) (t.runMatch n off) := by
  have hchecks : checkMatch n off t = checkMatch n off s := by
    rw [h.place]
    rfl
  rw [State.runMatch, State.runMatch, hchecks]
  cases hcheck : checkMatch n off s with
  | some e => exact h.errorEntry e
  | none =>
    obtain ⟨hoff, hroom⟩ := (checkMatch_eq_none_iff n off s).1 hcheck
    exact h.putMatch hs ht hready hready' hoff hroom

/-- A token executed in both places (R99, R100). -/
theorem SameDecode.exec (hs : Memory.wf s.mem = true) (ht : Memory.wf t.mem = true) {i : Instr} (hi : CanExecute i s)
    (htok : tokenOf i ≠ none) (hready : TokenReady t) :
    ∃ s' t', exec i s = .next s' ∧ exec i t = .next t' ∧ SameDecode len s' t' := by
  rcases tokenOf_ne_none_cases htok with ⟨b, rfl⟩ | ⟨coding, hc⟩
  · exact ⟨_, _, hi.ready.exec_lit b, hready.exec_lit b, h.putLiteral hs ht b⟩
  · obtain ⟨n, off, -, hexec⟩ := exec_match hi.wf hc
    have hcoding : s.coding = coding := Option.some.inj ((hi.coding.resolve_left (by simp [hc])).symm.trans hc)
    have hcoding' : t.coding = coding := by
      rw [h.place]
      exact hcoding
    exact ⟨_, _, (hexec s).trans (hi.ready.doMatch_eq hcoding n off),
      (hexec t).trans (hready.doMatch_eq hcoding' n off), h.runMatch hs ht hi.ready hready n off.toNat⟩

end

/-- The input regions of `s` and `t` hold the same `len` bytes. -/
def SameInput (len : Word) (s t : State) : Prop :=
  SameBytes s.mem s.latSrcAddr.toNat t.mem t.latSrcAddr.toNat len.toNat

section
variable {len : Word} {s t : State} (hs : Inv s) (ht : Inv t) (h : SameDecode len s t) (hinput : SameInput len s t)
include hs ht h hinput

/-- The step of a DECODE running in two places (R96). -/
theorem SameDecode.engineStep (hp : s.phase = .runDecode) :
    ∃ s' t', engineStep s = .next s' ∧ engineStep t = .next t' ∧ SameDecode len s' t' := by
  obtain ⟨hphase, -, -, hdec⟩ := h.fields
  have hp' := hphase.trans hp
  obtain ⟨hin, hout⟩ := hs.engineInRegions.decode hp
  obtain ⟨hin', hout'⟩ := ht.engineInRegions.decode hp'
  have hfields : SameFields t s := sameFields_of_sameBytes (h.length ▸ hinput) (hs.decoder hp)
  rw [engineStep_decode hp, engineStep_decode hp']
  by_cases hroom : s.dec.o < s.dec.n
  case neg =>
    have hfull := Nat.le_of_not_lt hroom
    refine ⟨_, _, decodeStep_of_fullOutput hin hout hfull, decodeStep_of_fullOutput hin' hout' (hdec ▸ hfull), ?_⟩
    rw [hdec]
    exact h.complete _
  have hroom' : t.dec.o < t.dec.n := hdec ▸ hroom
  by_cases hleft : s.dec.left = 0
  · have hleft' : t.dec.left = 0 := hdec ▸ hleft
    have hread' : readFlagWord t = (readFlagWord s).map t.inPlaceOf := by
      rw [← hfields.readFlagWord, ← h.place]
    cases hread : readFlagWord s with
    | error e =>
      rw [hread] at hread'
      exact ⟨_, _, decodeStep_of_flagOverrun hin hout hroom hleft hread,
        decodeStep_of_flagOverrun hin' hout' hroom' hleft' hread', h.errorEntry e⟩
    | ok u =>
      rw [hread] at hread'
      obtain ⟨d, rfl⟩ := readFlagWord_ok hread
      exact ⟨_, _, decodeStep_of_flagWord hin hout hroom hleft hread,
        decodeStep_of_flagWord hin' hout' hroom' hleft' hread', h.withDec d⟩
  · have hleft' : t.dec.left ≠ 0 := hdec ▸ hleft
    have hfetch' : fetchToken t = readInPlaceOf t (fetchToken s) := by
      rw [← hfields.fetchToken, ← h.place]
    cases hfetch : fetchToken s with
    | error e =>
      rw [hfetch] at hfetch'
      exact ⟨_, _, decodeStep_of_overrun hin hout hroom hleft hfetch,
        decodeStep_of_overrun hin' hout' hroom' hleft' hfetch', h.errorEntry e⟩
    | ok r =>
      obtain ⟨i, u⟩ := r
      rw [hfetch] at hfetch'
      have hcan := (tokenReady_of_outputFits hp hout hroom).canExecute_of_fetchToken hfetch
      have hcan' := (tokenReady_of_outputFits hp' hout' hroom').canExecute_of_fetchToken hfetch'
      have htok := tokenOf_of_fetchToken hfetch
      rw [decodeStep_of_fetched hin hout hroom hleft hfetch, decodeStep_of_fetched hin' hout' hroom' hleft' hfetch']
      obtain ⟨d, rfl⟩ := fetchToken_ok hfetch
      exact (h.withDec d).exec hs.memory ht.memory hcan htok hcan'.ready

end

/-- The engine's steps keep the bytes of the input regions the same (R28). -/
theorem SameInput.engineStep {s t s' t' : State} (hs : Inv s) (ht : Inv t) (hp : s.phase ≠ .idle) (hp' : t.phase ≠ .idle)
    (hlen : t.latSrcLen = s.latSrcLen) (hinput : SameInput s.latSrcLen s t) (hstep : engineStep s = .next s')
    (hstep' : engineStep t = .next t') : SameInput s.latSrcLen s' t' := by
  intro i hi
  exact ((hs.engineStep_writesOnlyOutput hstep).srcByte_eq (hs.context hp) hi).trans ((hinput i hi).trans
    ((ht.engineStep_writesOnlyOutput hstep').srcByte_eq (ht.context hp') (hlen ▸ hi)).symm)

/-- The engine's run of a DECODE in two places, for as many steps. -/
theorem SameDecode.runEngine {len : Word} : ∀ (fuel : Nat) {s t : State}, Inv s → Inv t → SameDecode len s t →
    SameInput len s t → SameDecode len (runEngine fuel s) (runEngine fuel t)
  | 0, _, _, _, _, h, _ => h
  | fuel + 1, s, t, hs, ht, h, hinput => by
    obtain ⟨hphase, hlen, -, -⟩ := h.fields
    cases hp : s.phase with
    | idle => rwa [runEngine_idle hp, runEngine_idle (hphase.trans hp)]
    | runEncode => exact absurd hp h.notEncode
    | runDecode =>
      have hbusy : s.phase ≠ .idle := by simp [hp]
      have hbusy' : t.phase ≠ .idle := by simp [hphase, hp]
      obtain ⟨s', t', hstep, hstep', hnext⟩ := h.engineStep hs ht hinput hp
      obtain rfl := h.length
      have hinput' := hinput.engineStep hs ht hbusy hbusy' hlen hstep hstep'
      rw [runEngine_succ hbusy hstep, runEngine_succ hbusy' hstep']
      exact SameDecode.runEngine fuel (hs.engineStep hstep) (ht.engineStep hstep') hnext hinput'

/-- The same DECODE has enough steps in either place (R145). -/
theorem SameDecode.engineFuel {len : Word} {s t : State} (h : SameDecode len s t) : engineFuel t = engineFuel s := by
  have hnotEncode := h.notEncode
  rw [h.place]
  change (match s.phase with | .idle => 0 | .runEncode => _ | .runDecode => 2 * (s.dec.n - s.dec.o) + 2) = _
  rw [Machine.engineFuel]
  cases hp : s.phase with
  | idle => rfl
  | runEncode => exact absurd hp hnotEncode
  | runDecode => rfl

/-- The ends of a DECODE in two places. -/
theorem SameDecode.finished {len : Word} {s t : State} (h : SameDecode len s t) (hs : Inv s) (ht : Inv t)
    (hinput : SameInput len s t) : SameDecode len s.finished t.finished := by
  rw [State.finished, State.finished, h.engineFuel]
  exact h.runEngine _ hs ht hinput

/-- The engine alone writes the output region alone (R28, R44). -/
theorem Inv.runEngine_writesOnlyOutput : ∀ (fuel : Nat) {s : State}, Inv s → WritesOnlyOutput s (Machine.runEngine fuel s)
  | 0, s, _ => .refl s
  | fuel + 1, s, h => by
    by_cases hp : s.phase = .idle
    · rw [runEngine_idle hp]
      exact .refl s
    · obtain ⟨t, hstep⟩ := h.engineInRegions.engineStep_next
      rw [runEngine_succ hp hstep]
      exact (h.engineStep_writesOnlyOutput hstep).trans ((h.engineStep hstep).runEngine_writesOnlyOutput fuel)

end Sys2Proof.Machine

namespace Sys2Proof.Machine

/-! ### Two idle states that give a command the same inputs (R115) -/

/-- The parameters, the sizes, and the bytes of the regions that the registers name are the same: what a command depends on
where its regions pass the start checks. -/
structure SameTask (s t : State) : Prop where
  params : s.params = t.params
  srcLen : s.srcLen = t.srcLen
  dstCap : s.dstCap = t.dstCap
  input : SameBytes s.mem s.srcAddr.toNat t.mem t.srcAddr.toNat s.srcLen.toNat
  output : SameBytes s.mem s.dstAddr.toNat t.mem t.dstAddr.toNat s.dstCap.toNat

/-- Two commands, given in `s` and `t`, have left `u` and `u'` with the same output bytes and the same status registers. -/
structure SameOutcome (s t u u' : State) : Prop where
  output : SameBytes u.mem s.dstAddr.toNat u'.mem t.dstAddr.toNat s.dstCap.toNat
  status : u.status = u'.status
  errInfo : u.errInfo = u'.errInfo
  outLen : u.outLen = u'.outLen
  litCount : u.litCount = u'.litCount
  matchCount : u.matchCount = u'.matchCount

/-- A command that has ended in its CMD write does nothing more. -/
theorem State.runCommand_of_idle {s u : State} {w : Word} (h : s.writeCmd w = u) (hp : u.phase = .idle) :
    s.runCommand w = u := by
  rw [State.runCommand, h, State.finished, runEngine_idle hp]

/-- A command that a start check ends (R111). -/
theorem State.runCommand_of_startChecks {s : State} (hb : s.busy = false) {w : Word}
    (hclear : ¬(cmdOp w = 0 ∧ cmdReserved w = 0)) {e : ErrorCause} (hcheck : (s.beginCommand w).startChecks w = some e) :
    s.runCommand w = (s.beginCommand w).errorEntry e :=
  State.runCommand_of_idle (State.writeCmd_of_startChecks hb hclear hcheck) rfl

/-- A command's run writes the output region alone (R28, R44). -/
theorem Inv.finished_writesOnlyOutput {s : State} (h : Inv s) : WritesOnlyOutput s s.finished :=
  h.runEngine_writesOnlyOutput _

section
variable {s t : State} (h : SameTask s t)
include h

/-- Commands that the start checks end with the same error (R111, R122). -/
theorem SameTask.sameOutcome_errorEntry (w : Word) (e : ErrorCause) :
    SameOutcome s t ((s.beginCommand w).errorEntry e) ((t.beginCommand w).errorEntry e) :=
  ⟨h.output, rfl, rfl, rfl, rfl, rfl⟩

/-- The sources have the same tokens (R84). -/
theorem SameTask.inputTokens (v : Variant) : t.inputTokens v = s.inputTokens v := by
  have hmax : 2 ≤ maxLenOf s.params v := Nat.le_trans (by decide) (le_maxLenOf s.params v)
  rw [State.inputTokens, State.inputTokens, ← h.params, ← h.srcLen]
  exact tokensFrom_congr h.input hmax s.params.mfTie _ 0

/-- Two ENCODEs of the same task end alike (R112). -/
theorem SameTask.encode (hs : Memory.wf s.mem = true) (ht : Memory.wf t.mem = true) (hb : s.busy = false)
    (hb' : t.busy = false) (hregions : RegionsStart s) (hregions' : RegionsStart t) (v : Variant) :
    SameOutcome s t (s.runCommand (commandWord 1 (codeOfVariant v))) (t.runCommand (commandWord 1 (codeOfVariant v))) := by
  have hout := hregions.encodeOutcome hb v
  have hout' := hregions'.encodeOutcome hb' v
  have hfailure : encodeFailure t.params v t.dstCap.toNat (t.inputTokens v) =
      encodeFailure s.params v s.dstCap.toNat (s.inputTokens v) := by
    rw [h.inputTokens, h.params, h.dstCap]
  rw [hfailure] at hout'
  cases hfail : encodeFailure s.params v s.dstCap.toNat (s.inputTokens v) with
  | some failed =>
    rw [hfail] at hout hout'
    obtain ⟨⟨hstatus, herr, hlen⟩, -, -, hmem, hlit, hmat⟩ := hout
    obtain ⟨⟨hstatus', herr', hlen'⟩, -, -, hmem', hlit', hmat'⟩ := hout'
    refine ⟨?_, hstatus.trans hstatus'.symm, herr.trans herr'.symm, hlen.trans hlen'.symm, hlit.trans hlit'.symm,
      hmat.trans hmat'.symm⟩
    rw [hmem, hmem']
    exact h.output
  | none =>
    rw [hfail] at hout hout'
    obtain ⟨hstatus, herr, hdone⟩ := hout
    obtain ⟨hstatus', herr', hdone'⟩ := hout'
    rw [h.inputTokens] at hdone'
    refine ⟨?_, hstatus.trans hstatus'.symm, herr.trans herr'.symm, hdone.outLen.trans hdone'.outLen.symm,
      hdone.literals.trans hdone'.literals.symm, hdone.copies.trans hdone'.copies.symm⟩
    have hlen : (containerOf v s.params.groupsHdrW1 s.srcLen (s.inputTokens v)).length ≤ s.dstCap.toNat :=
      (length_containerOf_eq_size (s.inputTokens_wf v) _ _).trans_le hdone.fits
    have hspace := hregions.output
    have hspace' := hregions'.output
    rw [hdone.mem, hdone'.mem, ← h.params, ← h.srcLen]
    rw [← h.dstCap] at hspace'
    exact h.output.writeBytes hs ht _ (k := 0) (by omega) (by omega)

/-- The header fields inside the containers are the same (R48). -/
theorem SameTask.inputField {k : Nat} (hk : k + 4 ≤ s.srcLen.toNat) : inputField t k = inputField s k := by
  refine congrArg bigEndian (List.map_congr_left fun j hj => ?_)
  rw [List.mem_range] at hj
  exact (h.input (k + j) (by omega)).symm

/-- DECODE_HEADER answers the same of both containers (R93). -/
theorem SameTask.headerChecks (v : Variant) :
    Machine.headerChecks { t.beginCommand (commandWord 2 (codeOfVariant v)) with phase := .runDecode } =
      Machine.headerChecks { s.beginCommand (commandWord 2 (codeOfVariant v)) with phase := .runDecode } := by
  rw [headerChecks_beginCommand, headerChecks_beginCommand, ← h.srcLen, ← h.dstCap]
  by_cases hlen : s.srcLen.toNat < 16
  · rw [if_pos hlen, if_pos hlen]
  · have hsize : inputSizeField v t = inputSizeField v s := by
      refine h.inputField ?_
      cases layoutOf v <;> simp only [sizeFieldAt] <;> omega
    rw [hsize, h.inputField (k := 0) (by omega), h.inputField (k := 8) (by omega), h.inputField (k := 12) (by omega)]

/-- Two DECODEs of the same task that start, with the same decoder (R113). -/
theorem SameTask.sameDecode (hs : BuffersEmpty s) (ht : BuffersEmpty t) (v : Variant) (d : Decoder) :
    SameDecode s.srcLen { s.beginCommand (commandWord 2 (codeOfVariant v)) with phase := .runDecode, dec := d }
      { t.beginCommand (commandWord 2 (codeOfVariant v)) with phase := .runDecode, dec := d } := by
  obtain ⟨hflags, hdict, hbytes⟩ := hs
  obtain ⟨hflags', hdict', hbytes'⟩ := ht
  refine ⟨nofun, rfl, ?_, h.output⟩
  simp [State.inPlaceOf, State.beginCommand, h.params, h.srcLen, h.dstCap, hflags, hdict, hbytes, hflags', hdict', hbytes']

/-- The decoder that starts a DECODE is the same for the same task (R95). -/
theorem SameTask.startDecoder {n : Nat} (v : Variant)
    (hchecks : Machine.headerChecks { s.beginCommand (commandWord 2 (codeOfVariant v)) with phase := .runDecode } = .ok n) :
    ∃ d, (s.beginCommand (commandWord 2 (codeOfVariant v))).startDecode =
        { s.beginCommand (commandWord 2 (codeOfVariant v)) with phase := .runDecode, dec := d } ∧
      (t.beginCommand (commandWord 2 (codeOfVariant v))).startDecode =
        { t.beginCommand (commandWord 2 (codeOfVariant v)) with phase := .runDecode, dec := d } := by
  obtain ⟨hwhole, -⟩ := headerChecks_ok hchecks
  have hsize : 16 ≤ s.srcLen.toNat := hwhole
  have hlayout (x : State) : (x.beginCommand (commandWord 2 (codeOfVariant v))).layout = layoutOf v :=
    congrArg layoutOf (beginCommand_commandWord_variant x 2 v)
  refine ⟨_, startDecode_of_ok hchecks, ?_⟩
  rw [startDecode_of_ok ((h.headerChecks v).trans hchecks), hlayout, hlayout]
  have hfield {k : Nat} (hk : k + 4 ≤ s.srcLen.toNat) :
      containerField (t.beginCommand (commandWord 2 (codeOfVariant v))) k 4 =
        containerField (s.beginCommand (commandWord 2 (codeOfVariant v))) k 4 := h.inputField hk
  have hlen : (t.beginCommand (commandWord 2 (codeOfVariant v))).latSrcLen =
      (s.beginCommand (commandWord 2 (codeOfVariant v))).latSrcLen := h.srcLen.symm
  rw [hfield (k := 8) (by omega), hfield (k := 12) (by omega), ← hlen]

end

/-- The ends of a DECODE in two places, where the latched output regions are those of `s` and `t`. -/
theorem SameDecode.sameOutcome {len : Word} {s t u u' : State} (h : SameDecode len u u') (hdst : u.latDstAddr = s.dstAddr)
    (hcap : u.latDstCap = s.dstCap) (hdst' : u'.latDstAddr = t.dstAddr) : SameOutcome s t u u' := by
  obtain ⟨-, -, hplace, hout⟩ := h
  rw [hdst, hcap, hdst'] at hout
  exact ⟨hout, (congrArg State.status hplace).symm, (congrArg State.errInfo hplace).symm,
    (congrArg State.outLen hplace).symm, (congrArg State.litCount hplace).symm, (congrArg State.matchCount hplace).symm⟩

/-- The start checks look at the word alone where the regions pass them (R111). -/
theorem RegionsStart.startChecks_eq {s : State} (h : RegionsStart s) (w : Word) :
    (s.beginCommand w).startChecks w =
      if 3 ≤ w.toNat % 16 then some .reservedOp
      else if w.toNat / 256 ≠ 0 then some .reservedBits
      else if 5 ≤ w.toNat / 16 % 16 then some .reservedVariant
      else none := by
  obtain ⟨hnonempty, hbounded, hin, hout, hapart⟩ := h
  change _ ≤ 0x3FFFFFFF at hbounded
  change _ ≤ 0x100000000 at hin hout
  have hdisjoint : ¬(0 < s.srcLen.toNat ∧ 0 < s.dstCap.toNat ∧ s.srcAddr.toNat < s.dstAddr.toNat + s.dstCap.toNat ∧
      s.dstAddr.toNat < s.srcAddr.toNat + s.srcLen.toNat) := by omega
  have hsize : ¬(s.srcLen.toNat = 0 ∨ 0x3FFFFFFF < s.srcLen.toNat) := by omega
  rw [startChecks_beginCommand, if_neg (Nat.not_lt.2 hin), if_neg (Nat.not_lt.2 hout), if_neg hdisjoint, if_neg hsize]

/-- Regions that pass the start checks (R111). -/
theorem regionsStart_of_startChecks {s : State} {w : Word} (h : (s.beginCommand w).startChecks w = none) :
    RegionsStart s := by
  rw [startChecks_beginCommand] at h
  iterate 7 (split at h; · cases h)
  refine ⟨by omega, ?_, ?_, ?_, by omega⟩
  · change _ ≤ 0x3FFFFFFF
    omega
  · change _ ≤ 0x100000000
    omega
  · change _ ≤ 0x100000000
    omega

section
variable {s t : State} (hs : Inv s) (ht : Inv t) (hb : s.busy = false) (hb' : t.busy = false)
include hs ht hb hb'

/-- Two DECODEs of the same task end alike (R113). -/
theorem SameTask.decode (h : SameTask s t) (hregions : RegionsStart s) (hregions' : RegionsStart t) (v : Variant) :
    SameOutcome s t (s.runCommand (commandWord 2 (codeOfVariant v))) (t.runCommand (commandWord 2 (codeOfVariant v))) := by
  have hw := hregions.writeCmd_decode hb v
  have hw' := hregions'.writeCmd_decode hb' v
  have hempty {x : State} (hx : Inv x) (hidle : x.busy = false) : BuffersEmpty x :=
    hx.buffers (by simp [hx.status.idle_of_not_busy hidle])
  cases hchecks : Machine.headerChecks { s.beginCommand (commandWord 2 (codeOfVariant v)) with phase := .runDecode } with
  | error e =>
    rw [startDecode_of_error hchecks] at hw
    rw [startDecode_of_error ((h.headerChecks v).trans hchecks)] at hw'
    rw [State.runCommand_of_idle hw rfl, State.runCommand_of_idle hw' rfl]
    exact h.sameOutcome_errorEntry _ e
  | ok n =>
    obtain ⟨d, hstart, hstart'⟩ := h.startDecoder v hchecks
    have hinv := hs.writeCmd (commandWord 2 (codeOfVariant v))
    have hinv' := ht.writeCmd (commandWord 2 (codeOfVariant v))
    rw [State.runCommand, State.runCommand]
    rw [hw, hstart] at hinv ⊢
    rw [hw', hstart'] at hinv' ⊢
    have hend := (h.sameDecode (hempty hs hb) (hempty ht hb') v d).finished hinv hinv' h.input
    have hwrites := hinv.finished_writesOnlyOutput
    have hwrites' := hinv'.finished_writesOnlyOutput
    exact hend.sameOutcome hwrites.latDstAddr hwrites.latDstCap hwrites'.latDstAddr

/-- Any word written to CMD ends alike in two idle states with the same task (R115). -/
theorem SameTask.runCommand (h : SameTask s t) (hregions : RegionsStart s) (hregions' : RegionsStart t) (w : Word) :
    SameOutcome s t (s.runCommand w) (t.runCommand w) := by
  by_cases hclear : cmdOp w = 0 ∧ cmdReserved w = 0
  · rw [State.runCommand_of_idle (State.writeCmd_of_clear hb hclear) (hs.status.idle_of_not_busy hb),
      State.runCommand_of_idle (State.writeCmd_of_clear hb' hclear) (ht.status.idle_of_not_busy hb')]
    exact ⟨h.output, rfl, rfl, rfl, rfl, rfl⟩
  · have hsame : (t.beginCommand w).startChecks w = (s.beginCommand w).startChecks w :=
      (hregions'.startChecks_eq w).trans (hregions.startChecks_eq w).symm
    cases hcheck : (s.beginCommand w).startChecks w with
    | some e =>
      rw [State.runCommand_of_startChecks hb hclear hcheck, State.runCommand_of_startChecks hb' hclear (hsame.trans hcheck)]
      exact h.sameOutcome_errorEntry w e
    | none =>
      rcases commandWord_of_startChecks hclear hcheck with ⟨v, rfl⟩ | ⟨v, rfl⟩
      · exact h.encode hs.memory ht.memory hb hb' hregions hregions' v
      · exact h.decode hs ht hb hb' hregions hregions' v

end

end Sys2Proof.Machine

namespace Sys2Proof.Machine

/-! ### Two idle states with the same memory and registers (R115) -/

/-- A command latches the output region that the registers name (R108). -/
theorem State.writeCmd_latDst {s : State} (hb : s.busy = false) {w : Word} (hclear : ¬(cmdOp w = 0 ∧ cmdReserved w = 0)) :
    (s.writeCmd w).latDstAddr = s.dstAddr ∧ (s.writeCmd w).latDstCap = s.dstCap := by
  rcases writeCmd_cases w s with ⟨hbusy, -⟩ | ⟨-, hop, hreserved, -⟩ | ⟨-, -, ⟨e, -, hw⟩ | ⟨-, -, hw⟩ | ⟨-, -, hw⟩⟩
  · exact absurd hbusy (by simp [hb])
  · exact absurd ⟨hop, hreserved⟩ hclear
  · rw [hw]
    exact ⟨rfl, rfl⟩
  · rw [hw]
    exact ⟨rfl, rfl⟩
  · rcases startDecode_cases (s.beginCommand w) with ⟨e, hd⟩ | ⟨d, hd⟩ <;> rw [hw, hd] <;> exact ⟨rfl, rfl⟩

/-- A command writes the output region alone (R28, R44). -/
theorem Inv.runCommand_read_outside {s : State} (h : Inv s) (hb : s.busy = false) {w : Word}
    (hclear : ¬(cmdOp w = 0 ∧ cmdReserved w = 0)) {x : Nat}
    (hx : x < s.dstAddr.toNat ∨ s.dstAddr.toNat + s.dstCap.toNat ≤ x) :
    Memory.read (s.runCommand w).mem x = Memory.read s.mem x := by
  obtain ⟨haddr, hcap⟩ := State.writeCmd_latDst hb hclear
  have hwrites := (h.writeCmd w).finished_writesOnlyOutput.outside x (by rwa [haddr, hcap])
  have hmem : (s.writeCmd w).mem = s.mem := by rw [s.writeCmd_eq w]
  rwa [hmem] at hwrites

section
variable {s t : State} (hs : Inv s) (ht : Inv t) (hb : s.busy = false) (hb' : t.busy = false)
include hs ht hb hb'

/-- Two commands that end with the same output bytes leave the same memory, where the memory was the same. -/
theorem SameOutcome.mem_eq {w : Word} (h : SameOutcome s t (s.runCommand w) (t.runCommand w))
    (hclear : ¬(cmdOp w = 0 ∧ cmdReserved w = 0)) (hmem : s.mem = t.mem) (haddr : s.dstAddr = t.dstAddr)
    (hcap : s.dstCap = t.dstCap) : (s.runCommand w).mem = (t.runCommand w).mem := by
  refine Memory.eq_of_read (lo := 0) (hs.runCommand w).memory (ht.runCommand w).memory fun x => ?_
  by_cases hx : x < s.dstAddr.toNat ∨ s.dstAddr.toNat + s.dstCap.toNat ≤ x
  · rw [hs.runCommand_read_outside hb hclear hx, ht.runCommand_read_outside hb' hclear (by rwa [← haddr, ← hcap]), hmem]
  · have hin := h.output (x - s.dstAddr.toNat) (by omega)
    rwa [← haddr, Nat.add_sub_cancel' (by omega)] at hin

/-- A command other than CLEAR ends alike in two idle states with the same memory, registers and parameters (R115). -/
theorem sameOutcome_of_sameRegisters {w : Word} (hclear : ¬(cmdOp w = 0 ∧ cmdReserved w = 0)) (h : SameTask s t)
    (hsrc : s.srcAddr = t.srcAddr) (hdst : s.dstAddr = t.dstAddr) :
    SameOutcome s t (s.runCommand w) (t.runCommand w) := by
  have hsame : (s.beginCommand w).startChecks w = (t.beginCommand w).startChecks w := by
    rw [startChecks_beginCommand, startChecks_beginCommand, hsrc, hdst, h.srcLen, h.dstCap]
  cases hcheck : (s.beginCommand w).startChecks w with
  | some e =>
    rw [State.runCommand_of_startChecks hb hclear hcheck, State.runCommand_of_startChecks hb' hclear (hsame ▸ hcheck)]
    exact h.sameOutcome_errorEntry w e
  | none =>
    exact h.runCommand hs ht hb hb' (regionsStart_of_startChecks hcheck) (regionsStart_of_startChecks (hsame ▸ hcheck)) w

end

/-- Settles O59: a command that passes the start checks depends on its task alone, the start checks look at the word and the
region registers alone, and no command writes outside the output region. -/
theorem commandsForgetEarlierOnes : Obligations.CommandsForgetEarlierOnes := by
  refine ⟨fun w s t hs ht hb hb' hparams hlen hcap hregions hregions' hinput houtput => ?_,
    fun w s t hs ht hb hb' hmem hparams hsrc hlen hdst hcap hnotClear => ?_⟩
  · have htask : SameTask s t := ⟨hparams, hlen, hcap, hinput, houtput⟩
    obtain ⟨hout, hstatus, herr, houtLen, hlit, hmatch⟩ := htask.runCommand hs ht hb hb' hregions hregions' w
    exact ⟨hout, hstatus, herr, houtLen, hlit, hmatch⟩
  · have hclear : ¬(cmdOp w = 0 ∧ cmdReserved w = 0) := (isClear_iff w).not.2 hnotClear
    have htask : SameTask s t :=
      ⟨hparams, hlen, hcap, fun i _ => by rw [hmem, hsrc], fun i _ => by rw [hmem, hdst]⟩
    have houtcome := sameOutcome_of_sameRegisters hs ht hb hb' hclear htask hsrc hdst
    exact ⟨houtcome.mem_eq hs ht hb hb' hclear hmem hdst hcap, houtcome.status, houtcome.errInfo, houtcome.outLen,
      houtcome.litCount, houtcome.matchCount⟩

end Sys2Proof.Machine

namespace Sys2Proof.Machine

/-! ### ERROR_ENTRY and the idle engine (R120 to R122, R125, R134) -/

/-- The codes are 1 to 5, and each code has its own range of subcauses, from 1 on (R120, R121). -/
theorem ErrorCause.code_and_sub_bounds (e : ErrorCause) :
    1 ≤ e.code ∧ e.code ≤ 5 ∧ 1 ≤ e.sub ∧
      e.sub ≤ (if e.code = 1 then 5 else if e.code = 2 then 1 else if e.code = 3 then 8 else if e.code = 4 then 2 else 6) := by
  cases e <;> decide

/-- ERRCODE after an error is the cause's code (R122). -/
theorem State.errorEntry_errCode_toNat (e : ErrorCause) (s : State) : (s.errorEntry e).errCode.toNat = e.code := by
  obtain ⟨-, hle, -, -⟩ := e.code_and_sub_bounds
  rw [State.errCode, State.errorEntry_status, e.status_eq, BitVec.extractLsb'_toNat, BitVec.toNat_ofNat,
    Nat.shiftRight_eq_div_pow]
  omega

/-- After an error ERR is 1, because the code is not 0, and BUSY and DONE are therefore 0 (R10, R122). -/
theorem State.errorEntry_statusBits (e : ErrorCause) (s : State) :
    (s.errorEntry e).err = true ∧ (s.errorEntry e).busy = false ∧ (s.errorEntry e).done = false := by
  obtain ⟨-, hbusyErr, hdoneErr, hcode, -, -⟩ := statusValues_fields _ e.status_mem
  have hne : (s.errorEntry e).errCode ≠ 0 := by
    intro hzero
    have hcodeZero : e.code = 0 := by rw [← s.errorEntry_errCode_toNat e, hzero]; rfl
    have hpos := e.code_and_sub_bounds.1
    omega
  have herr : (s.errorEntry e).err = true := hcode.1 hne
  exact ⟨herr, Bool.eq_false_iff.2 fun hbusy => hbusyErr ⟨hbusy, herr⟩,
    Bool.eq_false_iff.2 fun hdone => hdoneErr ⟨hdone, herr⟩⟩

/-- Settles O39: STATUS after ERROR_ENTRY is the cause's word, whose fields the bound on the code gives, and the pairs are
read off the table of causes. -/
theorem errorEntryEffect : Obligations.ErrorEntryEffect := by
  refine ⟨fun e s => ⟨?_, ?_⟩, rfl, ErrorCause.code_and_sub_bounds⟩
  · rw [← e.status_eq]
    rfl
  · obtain ⟨herr, hbusy, hdone⟩ := s.errorEntry_statusBits e
    exact ⟨herr, hbusy, hdone, s.errorEntry_errCode_toNat e, State.clearStatus_status _⟩

/-- Settles O50: with nothing for the host to do a step is the engine's, and the idle engine does nothing. -/
theorem idleKeepsTheState : Obligations.IdleKeepsTheState := by
  intro s hphase hhost
  rw [step_of_quiet hhost, engineStep_idle hphase]

end Sys2Proof.Machine

/-! ## Every command ends (R145) -/

namespace Sys2Proof.Machine

/-! ### One engine step nearer to the end -/

/-- What every read of a stream keeps, the reading of a token keeps after its flag bit (R98 to R101). -/
theorem fetchToken_keeps {P : State → Prop}
    (hread : ∀ {st w e v} {s t : State}, P s → readStream st w e s = .ok (v, t) → P t) {s t : State} {i : Instr}
    (hs : P (consumeFlag s)) (h : fetchToken s = .ok (i, t)) : P t := by
  unfold fetchToken at h
  split at h
  · unfold fetchLiteral at h
    split at h
    · cases h
    · rename_i hbyte
      cases h
      exact hread hs hbyte
  · exact fetchMatch_keeps hread hs h

/-- The decoded size and the output cursor are no concern of a token's reading (R98 to R101). -/
theorem fetchToken_output {s t : State} {i : Instr} (h : fetchToken s = .ok (i, t)) :
    t.dec.n = s.dec.n ∧ t.dec.o = s.dec.o := by
  refine fetchToken_keeps (P := fun u => u.dec.n = s.dec.n ∧ u.dec.o = s.dec.o) (fun hu hread => ?_) ⟨rfl, rfl⟩ h
  obtain ⟨c, x, rfl⟩ := readStream_ok hread
  exact ⟨(setCursor_n ..).trans hu.1, (setCursor_o ..).trans hu.2⟩

/-- The next round covers at least one source byte (R76, R83). -/
theorem one_le_spanOf_nextTokens {s : State} (hc : s.enc.c < s.latSrcLen.toNat) : 1 ≤ spanOf s.nextTokens := by
  have hmax : 17 ≤ s.maxLen := le_maxLenOf s.params s.variant
  exact (decideTokens_cover hc (by omega) (find_len_le s.srcByte _ (by omega) s.params.mfTie) s.srcByte).1

/-- The running command has ended, with DONE or ERR (R114, R122). -/
structure Ended (s : State) : Prop where
  idle : s.phase = .idle
  shown : s.done = true ∨ s.err = true

/-- An error ends the command with ERR (R122). -/
theorem ended_errorEntry (s : State) (e : ErrorCause) : Ended (s.errorEntry e) :=
  ⟨rfl, .inr (s.errorEntry_statusBits e).1⟩

/-- A completion ends the command with DONE (R114). -/
theorem ended_complete (s : State) (n : Nat) : Ended (s.complete n) :=
  ⟨rfl, .inl (by decide : statusDone.getLsbD 1 = true)⟩

/-- The end of an ENCODE ends the command, by completion or by an error (R112). -/
theorem ended_finishEncode (s : State) : Ended (settle (finishEncode s)) := by
  rcases finishEncode_cases s with ⟨e, t, hfin, -⟩ | ⟨t, hfin, -⟩ <;> rw [hfin]
  · exact ended_errorEntry t e
  · exact ended_complete _ _

/-- A bound on the engine's steps until the running command ends: the encoder's bytes left, each round covering one; the
decoder's bytes left, each with its token and at most one flag word, and one flag word more where none is held. -/
def stepsLeft (s : State) : Nat :=
  match s.phase with
  | .idle => 0
  | .runEncode => s.latSrcLen.toNat - s.enc.c + 1
  | .runDecode => 2 * (s.dec.n - s.dec.o) + (if s.dec.left = 0 then 1 else 0) + 1

/-- The bound of a running ENCODE. -/
theorem stepsLeft_encode {s : State} (hp : s.phase = .runEncode) : stepsLeft s = s.latSrcLen.toNat - s.enc.c + 1 := by
  rw [stepsLeft, hp]

/-- The bound of a running DECODE. -/
theorem stepsLeft_decode {s : State} (hp : s.phase = .runDecode) :
    stepsLeft s = 2 * (s.dec.n - s.dec.o) + (if s.dec.left = 0 then 1 else 0) + 1 := by
  rw [stepsLeft, hp]

/-- A running command has a step left. -/
theorem stepsLeft_pos {s : State} (hp : s.phase ≠ .idle) : 0 < stepsLeft s := by
  cases hphase : s.phase with
  | idle => exact absurd hphase hp
  | runEncode => rw [stepsLeft_encode hphase]; exact Nat.succ_pos _
  | runDecode => rw [stepsLeft_decode hphase]; exact Nat.succ_pos _

/-- The model's own bound is large enough. -/
theorem stepsLeft_le_engineFuel (s : State) : stepsLeft s ≤ engineFuel s := by
  rw [stepsLeft, engineFuel]
  cases s.phase with
  | idle => exact Nat.le_refl 0
  | runEncode => exact Nat.le_refl _
  | runDecode =>
    dsimp only
    split <;> omega

/-- A step from `s` to `t` of the running command has ended it, or has left fewer steps. -/
def Progresses (s t : State) : Prop := Ended t ∨ (t.phase ≠ .idle ∧ stepsLeft t < stepsLeft s)

/-- A step of a DECODE reads a flag word where none is held, puts a token, or ends the command (R96). -/
theorem decodeStep_progresses {s t : State} (hp : s.phase = .runDecode) (hstep : decodeStep s = .next t) : Progresses s t := by
  rcases decodeStep_cases s with ⟨-, hstop⟩ | ⟨-, ⟨-, hdone⟩ | ⟨-, hleft, ⟨e, -, he⟩ | ⟨u, hread, hok⟩⟩ |
    ⟨hroom, -, ⟨e, -, he⟩ | ⟨i, u, hfetch, hexec⟩⟩⟩
  · cases hstop.symm.trans hstep
  · cases hdone.symm.trans hstep
    exact .inl (ended_complete s _)
  · cases he.symm.trans hstep
    exact .inl (ended_errorEntry s e)
  · cases hok.symm.trans hstep
    rw [readFlagWord_eq] at hread
    split at hread
    · cases hread
    · cases hread
      have hfw : s.fw ≠ 0 := by have := s.fw_ge; omega
      refine .inr ⟨by simp [hp], ?_⟩
      rw [stepsLeft_decode hp, stepsLeft_decode (by exact hp), if_pos hleft, if_neg (by exact hfw)]
      exact Nat.lt_succ_self _
  · cases he.symm.trans hstep
    exact .inl (ended_errorEntry s e)
  · obtain ⟨hn, ho⟩ := fetchToken_output hfetch
    have hput {v : State} (hphase : v.phase = .runDecode) (hsize : v.dec.n = u.dec.n) (hmore : u.dec.o < v.dec.o) :
        Progresses s v := by
      refine .inr ⟨by simp [hphase], ?_⟩
      rw [stepsLeft_decode hp, stepsLeft_decode hphase]
      split <;> omega
    obtain ⟨hphase, ⟨b, rfl⟩ | ⟨e, rfl⟩ | ⟨n, off, hlen, -, rfl⟩⟩ :=
      exec_token_cases (tokenOf_of_fetchToken hfetch) (hexec.symm.trans hstep)
    · exact hput hphase rfl (Nat.lt_succ_self _)
    · exact .inl (ended_errorEntry u e)
    · exact hput hphase rfl (Nat.lt_add_of_pos_right hlen)

section
variable {s t : State} (h : Inv s)
include h

/-- A step of an ENCODE covers source bytes, or ends the command (R76, R112). -/
theorem Inv.encode_progresses (hp : s.phase = .runEncode) (hstep : Machine.engineStep s = .next t) : Progresses s t := by
  have hlegal := (h.context (by simp [hp])).legal
  obtain ⟨hflags, hdict, hbytes⟩ := (h.encoder hp).capacities
  by_cases hc : s.enc.c < s.latSrcLen.toNat
  · cases hr : roundRaises s s.nextTokens with
    | some raised =>
      obtain ⟨u, hu, -, -, v, -, -, hv⟩ :=
        engineStep_of_roundRaises hp hlegal hc ⟨hflags, hdict, hbytes⟩ (e := raised.1) hr
      cases hu.symm.trans hstep
      exact .inl (hv ▸ ended_errorEntry v _)
    | none =>
      obtain ⟨u, hu, hencoded⟩ := engineStep_of_roundFits hp hlegal hc hr
      cases hu.symm.trans hstep
      obtain ⟨-, hlen, -, -, hphase, hcursor⟩ := hencoded.fields
      have hspan := one_le_spanOf_nextTokens hc
      refine .inr ⟨by simp [hphase, hp], ?_⟩
      rw [stepsLeft_encode (hphase.trans hp), stepsLeft_encode hp, hlen, hcursor]
      omega
  · cases (engineStep_of_sourceEncoded hp hlegal hc).symm.trans hstep
    exact .inl (ended_finishEncode s)

/-- Every step of a running command ends it, or leaves fewer steps (R145). -/
theorem Inv.engineStep_progresses (hp : s.phase ≠ .idle) (hstep : Machine.engineStep s = .next t) : Progresses s t := by
  cases hphase : s.phase with
  | idle => exact absurd hphase hp
  | runEncode => exact h.encode_progresses hphase hstep
  | runDecode => exact decodeStep_progresses hphase ((engineStep_decode hphase).symm.trans hstep)

end

/-! ### The engine alone -/

/-- With as many steps as the bound, the engine alone ends a running command (R145). -/
theorem Inv.runEngine_ended : ∀ {fuel : Nat} {s : State}, Inv s → s.phase ≠ .idle → stepsLeft s ≤ fuel →
    Ended (Machine.runEngine fuel s)
  | 0, _, _, hp, hfuel => absurd (stepsLeft_pos hp) hfuel.not_gt
  | fuel + 1, s, h, hp, hfuel => by
    obtain ⟨t, hstep⟩ := h.engineInRegions.engineStep_next
    rw [runEngine_succ hp hstep]
    rcases h.engineStep_progresses hp hstep with hended | ⟨hp', hless⟩
    · rwa [runEngine_idle hended.idle]
    · exact (h.engineStep hstep).runEngine_ended hp' (by omega)

/-- The engine alone ends a running command (R145). -/
theorem Inv.finished_ended {s : State} (h : Inv s) (hp : s.phase ≠ .idle) : Ended s.finished :=
  h.runEngine_ended hp (stepsLeft_le_engineFuel s)

/-- Settles O57: every engine step of a running command ends it or leaves fewer steps, and the model's bound covers them. -/
theorem everyCommandEnds : Obligations.EveryCommandEnds := by
  intro s h
  by_cases hp : s.phase = .idle
  · rw [State.finished, runEngine_idle hp]
    exact ⟨hp, fun hbusy => absurd hp hbusy⟩
  · obtain ⟨hidle, hshown⟩ := h.finished_ended hp
    exact ⟨hidle, fun _ => hshown⟩

end Sys2Proof.Machine

/-! ## The host's accesses to memory while a command runs (R139) -/

namespace Sys2Proof.Machine

section
variable {s : State} {addr : Word} {v : Byte}

/-- A write into either latched region while BUSY = 1 is refused (R139). -/
theorem hostMemWrite_refused (h : s.busy = true ∧ (s.inInput addr = true ∨ s.inOutput addr = true)) :
    hostMemWrite addr v s = .refused (.hostRace addr) :=
  if_pos (by simpa using h)

/-- Any other write changes its byte of memory (R27, R139). -/
theorem hostMemWrite_allowed (h : ¬(s.busy = true ∧ (s.inInput addr = true ∨ s.inOutput addr = true))) :
    hostMemWrite addr v s = .next { s with mem := Memory.write s.mem addr.toNat v } :=
  if_neg (by simpa using h)

/-- A read of the latched output region while BUSY = 1 is refused (R139). -/
theorem hostMemRead_refused (h : s.busy = true ∧ s.inOutput addr = true) :
    hostMemRead addr s = .refused (.hostRace addr) :=
  if_pos (by simpa using h)

/-- Any other read hands over its byte of memory (R27, R139). -/
theorem hostMemRead_allowed (h : ¬(s.busy = true ∧ s.inOutput addr = true)) :
    hostMemRead addr s = .next (s.deliver ((Memory.read s.mem addr.toNat).setWidth 32)) :=
  if_neg (by simpa using h)

end

/-- Settles O47: a write into either latched region, and a read of the output region, is refused while BUSY = 1; every other
access goes to memory. -/
theorem hostMemoryAccesses : Obligations.HostMemoryAccesses := by
  intro s addr v rest within inSrc inDst
  have hsrc : ({ s with host := rest } : State).inInput addr = true ↔ inSrc := inRegion_iff _ _ _
  have hdst : ({ s with host := rest } : State).inOutput addr = true ↔ inDst := inRegion_iff _ _ _
  refine ⟨fun hhost => ?write, fun hhost => ?read⟩
  case write =>
    have hstep : step s = hostMemWrite addr v { s with host := rest } := step_of_host hhost nofun
    rw [hstep]
    exact ⟨fun ⟨hb, hin⟩ => hostMemWrite_refused ⟨hb, hin.imp hsrc.2 hdst.2⟩,
      fun hfree => hostMemWrite_allowed fun ⟨hb, hin⟩ => hfree ⟨hb, hin.imp hsrc.1 hdst.1⟩⟩
  case read =>
    have hstep : step s = hostMemRead addr { s with host := rest } := step_of_host hhost nofun
    rw [hstep]
    exact ⟨fun ⟨hb, hin⟩ => hostMemRead_refused ⟨hb, hdst.2 hin⟩,
      fun hfree => hostMemRead_allowed fun ⟨hb, hin⟩ => hfree ⟨hb, hdst.1 hin⟩⟩

end Sys2Proof.Machine

/-! ## The counters at a command's end (R142) -/

namespace Sys2Proof.Machine

/-! ### What the end of a command depends on -/

/-- Any two numbers of steps that suffice lead the engine alone to the same state. -/
theorem Inv.runEngine_eq : ∀ {a b : Nat} {s : State}, Inv s → stepsLeft s ≤ a → stepsLeft s ≤ b →
    Machine.runEngine a s = Machine.runEngine b s
  | a, b, s, h, ha, hb => by
    by_cases hp : s.phase = .idle
    · rw [runEngine_idle hp, runEngine_idle hp]
    · have hpos := stepsLeft_pos hp
      obtain ⟨a, rfl⟩ := Nat.exists_eq_succ_of_ne_zero (by omega : a ≠ 0)
      obtain ⟨b, rfl⟩ := Nat.exists_eq_succ_of_ne_zero (by omega : b ≠ 0)
      obtain ⟨t, hstep⟩ := h.engineInRegions.engineStep_next
      rw [runEngine_succ hp hstep, runEngine_succ hp hstep]
      rcases h.engineStep_progresses hp hstep with hended | ⟨-, hless⟩
      · rw [runEngine_idle hended.idle, runEngine_idle hended.idle]
      · exact (h.engineStep hstep).runEngine_eq (by omega) (by omega)

/-- An engine step leaves the state in which the command ends the same (R115). -/
theorem Inv.finished_engineStep {s t : State} (h : Inv s) (hstep : Machine.engineStep s = .next t) :
    t.finished = s.finished := by
  by_cases hp : s.phase = .idle
  · cases (engineStep_idle hp).symm.trans hstep
    rfl
  · have hfuel := stepsLeft_le_engineFuel s
    have hmore : s.finished = Machine.runEngine (engineFuel s + engineFuel t + 1) s :=
      h.runEngine_eq hfuel (by omega)
    rw [hmore, runEngine_succ hp hstep]
    rcases h.engineStep_progresses hp hstep with hended | ⟨-, hless⟩
    · rw [State.finished, runEngine_idle hended.idle, runEngine_idle hended.idle]
    · have hfuel' := stepsLeft_le_engineFuel t
      exact (h.engineStep hstep).runEngine_eq hfuel' (by omega)

/-- The engine alone does not see the host side (R13). -/
theorem runEngine_mapHostSide (f : HostSide → HostSide) : ∀ (fuel : Nat) (s : State),
    runEngine fuel (s.mapHostSide f) = (runEngine fuel s).mapHostSide f
  | 0, _ => rfl
  | fuel + 1, s => by
    rw [runEngine, runEngine, State.mapHostSide_phase, engineStep_mapHostSide]
    cases s.phase with
    | idle => rfl
    | runEncode | runDecode =>
      cases engineStep s with
      | next t => exact runEngine_mapHostSide f fuel t
      | fault _ => rfl
      | refused _ => rfl

/-- The counters at a command's end. -/
def State.finalCounts (s : State) : Word × Word := (s.finished.litCount, s.finished.matchCount)

/-- The host side has no bearing on the counters at a command's end (R13). -/
@[simp] theorem State.finalCounts_mapHostSide (f : HostSide → HostSide) (s : State) :
    (s.mapHostSide f).finalCounts = s.finalCounts := by
  have hfinished : (s.mapHostSide f).finished = s.finished.mapHostSide f := runEngine_mapHostSide f (engineFuel s) s
  rw [State.finalCounts, hfinished]
  rfl

/-! ### The counters of an ENCODE and the memory outside its regions (R139) -/

/-- The tokens a running ENCODE has still to emit (R84). -/
def State.tokensToCome (s : State) : List Token :=
  tokensFrom s.srcByte s.latSrcLen.toNat s.maxLen s.params.mfTie (s.latSrcLen.toNat - s.enc.c) s.enc.c

/-- The tokens a running ENCODE will complete: those to come, up to the first that raises (R123, R124). -/
def State.tokensCompleted (s : State) : List Token := ((roundRaises s s.tokensToCome).map Prod.snd).getD s.tokensToCome

/-- The end of an ENCODE leaves the counters alone (R112). -/
theorem settle_finishEncode_counts (s : State) :
    (settle (finishEncode s)).litCount = s.litCount ∧ (settle (finishEncode s)).matchCount = s.matchCount := by
  rcases finishEncode_cases s with ⟨e, t, hfin, _, _, _, _, rfl⟩ | ⟨t, hfin, ⟨_, _, _, _, rfl⟩, -⟩ <;> rw [hfin] <;>
    exact ⟨rfl, rfl⟩

/-- Emitted tokens are counted (R79, R80). -/
theorem EncodedFrom.counts {s u : State} {ts : List Token} (h : EncodedFrom s ts u) :
    u.litCount = s.litCount + BitVec.ofNat 32 (literalsIn ts) ∧
      u.matchCount = s.matchCount + BitVec.ofNat 32 (copiesIn ts) := by
  obtain ⟨_, _, rfl⟩ := h
  rw [foldl_afterToken]
  exact ⟨rfl, rfl⟩

/-- A running ENCODE ends with the counts of the tokens it completes added (R79, R80, R123). -/
theorem Inv.finalCounts_encode {s : State} (h : Inv s) (hp : s.phase = .runEncode) :
    s.finalCounts = (s.litCount + BitVec.ofNat 32 (literalsIn s.tokensCompleted),
      s.matchCount + BitVec.ofNat 32 (copiesIn s.tokensCompleted)) := by
  have hlegal := (h.context (by simp [hp])).legal
  obtain ⟨hflags, hdict, hbytes⟩ := (h.encoder hp).capacities
  obtain ⟨hfits, hraises⟩ := runEngine_encode hp hlegal ⟨hflags, hdict, hbytes⟩ le_rfl
  have hfinished : s.finished = Machine.runEngine (s.latSrcLen.toNat - s.enc.c + 1) s := by
    rw [State.finished, engineFuel, hp]
  rw [State.finalCounts, State.tokensCompleted, hfinished]
  cases hr : roundRaises s s.tokensToCome with
  | some raised =>
    have hend := (hraises raised.1 raised.2 hr).encodeEndedBy
    rw [hend.literals, hend.copies]
    rfl
  | none =>
    obtain ⟨u, hencoded, hend⟩ := hfits hr
    obtain ⟨hlit, hmat⟩ := settle_finishEncode_counts u
    obtain ⟨hlits, hcopies⟩ := hencoded.counts
    rw [hend, hlit, hmat, hlits, hcopies]
    rfl

/-- A state with another memory. -/
def State.withMem (m : List Host.Cell) (s : State) : State := { s with mem := m }

section
variable {s : State} {m : List Host.Cell}
  (hin : SameBytes s.mem s.latSrcAddr.toNat m s.latSrcAddr.toNat s.latSrcLen.toNat)
include hin

/-- The tokens to come are those of the bytes of the input region (R84). -/
theorem tokensToCome_withMem : (s.withMem m).tokensToCome = s.tokensToCome := by
  have hmax : 2 ≤ s.maxLen := Nat.le_trans (by decide) (le_maxLenOf s.params s.variant)
  exact tokensFrom_congr hin hmax s.params.mfTie _ s.enc.c

/-- The tokens completed are those of the bytes of the input region (R84, R124). -/
theorem tokensCompleted_withMem : (s.withMem m).tokensCompleted = s.tokensCompleted := by
  rw [State.tokensCompleted, State.tokensCompleted, tokensToCome_withMem hin,
    show roundRaises (s.withMem m) _ = _ from roundRaises_withStreamsOf s.tokensToCome (s.withMem m) s]

/-- Memory with the same bytes in the latched regions gives a running command the same counters at its end (R115, R139). -/
theorem Inv.finalCounts_withMem (h : Inv s) (hp : s.phase ≠ .idle) (hm : Memory.wf m = true)
    (hout : SameBytes s.mem s.latDstAddr.toNat m s.latDstAddr.toNat s.latDstCap.toNat) :
    (s.withMem m).finalCounts = s.finalCounts := by
  have h' : Inv (s.withMem m) := h.withMem hm
  cases hphase : s.phase with
  | idle => exact absurd hphase hp
  | runEncode =>
    rw [h.finalCounts_encode hphase, h'.finalCounts_encode hphase, tokensCompleted_withMem hin]
    rfl
  | runDecode =>
    have hsame : SameDecode s.latSrcLen s (s.withMem m) := ⟨by simp [hphase], rfl, rfl, hout⟩
    have hplace := (hsame.finished h h' hin).place
    rw [State.finalCounts, State.finalCounts, hplace]
    rfl

end

/-! ### Draws of the counters (R142) -/

/-- A draw lies between the last value seen and the value at the end, or is the last value seen where that one is larger. -/
theorem counterDraw_bounds (free seen final : Word) :
    seen.toNat ≤ (counterDraw free seen final).toNat ∧
      (seen.toNat ≤ final.toNat → (counterDraw free seen final).toNat ≤ final.toNat) := by
  have hseen := seen.isLt
  have hfinal := final.isLt
  have hdraw : free.toNat % (final.toNat - seen.toNat + 1) < final.toNat - seen.toNat + 1 := Nat.mod_lt _ (Nat.succ_pos _)
  have hvalue : (counterDraw free seen final).toNat = seen.toNat + free.toNat % (final.toNat - seen.toNat + 1) := by
    rw [counterDraw, BitVec.toNat_ofNat, Nat.mod_eq_of_lt (by omega)]
  omega

/-- Nothing is claimed of the draws of an idle machine. -/
theorem drawsInRange_of_idle {s : State} (hp : s.phase = .idle) : DrawsInRange s := fun hbusy => absurd hp hbusy

/-- A command that has just begun has no draws (R142). -/
theorem drawsInRange_of_unseen {s : State} (hlit : s.litSeen = 0) (hmat : s.matchSeen = 0) : DrawsInRange s :=
  fun _ => ⟨hlit ▸ Nat.zero_le _, hmat ▸ Nat.zero_le _⟩

/-- The draws of two states with the same phase, the same values seen and the same counters at the end. -/
theorem DrawsInRange.of_sameCounts {s t : State} (h : DrawsInRange s) (hphase : t.phase ≠ .idle → s.phase ≠ .idle)
    (hlit : t.litSeen = s.litSeen) (hmat : t.matchSeen = s.matchSeen)
    (hcounts : t.phase ≠ .idle → t.finalCounts = s.finalCounts) : DrawsInRange t := by
  intro hp
  obtain ⟨hlitEnd, hmatEnd⟩ := Prod.mk.inj (hcounts hp)
  rw [hlit, hmat, hlitEnd, hmatEnd]
  exact h (hphase hp)

/-- A change of the host side after which the values seen are still at most the counters at the end. -/
theorem DrawsInRange.mapHostSide_of_le {s : State} (h : DrawsInRange s) (f : HostSide → HostSide)
    (hlit : s.litSeen.toNat ≤ s.finished.litCount.toNat → (f s.hostSide).litSeen.toNat ≤ s.finished.litCount.toNat)
    (hmat : s.matchSeen.toNat ≤ s.finished.matchCount.toNat →
      (f s.hostSide).matchSeen.toNat ≤ s.finished.matchCount.toNat) :
    DrawsInRange (s.mapHostSide f) := by
  obtain ⟨hlitEnd, hmatEnd⟩ := Prod.mk.inj (State.finalCounts_mapHostSide f s)
  intro hp
  rw [hlitEnd, hmatEnd]
  exact (h hp).imp hlit hmat

/-- A change of the host side that leaves the values seen alone. -/
theorem DrawsInRange.mapHostSide {s : State} (h : DrawsInRange s) (f : HostSide → HostSide)
    (hlit : (f s.hostSide).litSeen = s.litSeen) (hmat : (f s.hostSide).matchSeen = s.matchSeen) :
    DrawsInRange (s.mapHostSide f) :=
  h.mapHostSide_of_le f (fun hle => hlit ▸ hle) fun hle => hmat ▸ hle

/-! ### What each operation does to the draws -/

section
variable {s : State} (hinv : Inv s) (h : DrawsInRange s)
include h

/-- A read of LIT_COUNT while BUSY = 1 keeps the draws in range (R142). -/
theorem DrawsInRange.drawLitCount : DrawsInRange s.drawLitCount :=
  h.mapHostSide_of_le
    (fun x => { x with readData := s.drawLitCount.readData, litSeen := s.drawLitCount.litSeen, fresh := s.fresh + 1 })
    (counterDraw_bounds _ _ _).2 id

/-- A read of MATCH_COUNT while BUSY = 1 keeps the draws in range (R142). -/
theorem DrawsInRange.drawMatchCount : DrawsInRange s.drawMatchCount :=
  h.mapHostSide_of_le
    (fun x => { x with
      readData := s.drawMatchCount.readData, matchSeen := s.drawMatchCount.matchSeen, fresh := s.fresh + 1 })
    id (counterDraw_bounds _ _ _).2

/-- A value handed to the host keeps the draws in range. -/
theorem DrawsInRange.deliver (v : Word) : DrawsInRange (s.deliver v) :=
  h.mapHostSide (fun x => { x with readData := v }) rfl rfl

/-- A register read keeps the draws in range (R8, R34, R142). -/
theorem DrawsInRange.readRegister (off : BitVec 8) (width : AccessWidth) : DrawsInRange (s.readRegister off width) := by
  unfold State.readRegister
  split
  · exact h.mapHostSide (fun x => { x with readData := Config.freeWord s.fresh, fresh := s.fresh + 1 }) rfl rfl
  · split
    · exact h.drawLitCount
    · split
      · exact h.drawMatchCount
      · exact h.deliver (s.register off)

/-- The host's register read keeps the draws in range. -/
theorem DrawsInRange.hostRead {t : State} {addr : Word} {width : AccessWidth}
    (hstep : Machine.hostRead addr width s = .next t) : DrawsInRange t := by
  unfold Machine.hostRead at hstep
  split at hstep
  · cases hstep
  · cases hstep
    exact h.readRegister _ width

/-- The host's read of a byte of memory keeps the draws in range. -/
theorem DrawsInRange.hostMemRead {t : State} {addr : Word} (hstep : Machine.hostMemRead addr s = .next t) :
    DrawsInRange t := by
  by_cases hrace : s.busy = true ∧ s.inOutput addr = true
  · cases (hostMemRead_refused hrace).symm.trans hstep
  · cases (hostMemRead_allowed hrace).symm.trans hstep
    exact h.deliver _

/-- A register write other than CMD's keeps the draws in range (R13). -/
theorem DrawsInRange.setRegister (off : BitVec 8) (v : Word) : DrawsInRange (s.setRegister off v) := by
  rw [State.setRegister_eq]
  exact h.mapHostSide (fun x => { x with
    srcAddr := if off = 0x08 then v else s.srcAddr
    srcLen := if off = 0x0C then v else s.srcLen
    dstAddr := if off = 0x10 then v else s.dstAddr
    dstCap := if off = 0x14 then v else s.dstCap }) rfl rfl

include hinv

/-- The engine's step keeps the draws in range: it leaves the values seen and the end of the command alone. -/
theorem DrawsInRange.engineStep {t : State} (hstep : Machine.engineStep s = .next t) : DrawsInRange t := by
  have hside := hostSide_of_engineStep hstep
  refine h.of_sameCounts (fun hp hidle => ?_) (congrArg HostSide.litSeen hside) (congrArg HostSide.matchSeen hside)
    fun _ => ?_
  · cases (engineStep_idle hidle).symm.trans hstep
    exact hp hidle
  · rw [State.finalCounts, hinv.finished_engineStep hstep, State.finalCounts]

/-- A write of a word to CMD keeps the draws in range: it is ignored, or ends or begins a command (R108, R109, R110). -/
theorem DrawsInRange.writeCmd (w : Word) : DrawsInRange (s.writeCmd w) := by
  rcases writeCmd_cases w s with ⟨-, hw⟩ | ⟨hb, -, -, hw⟩ | ⟨-, -, ⟨e, -, hw⟩ | ⟨-, -, hw⟩ | ⟨-, -, hw⟩⟩ <;> rw [hw]
  · exact h
  · exact drawsInRange_of_idle (hinv.status.idle_of_not_busy hb)
  · exact drawsInRange_of_idle rfl
  · exact drawsInRange_of_unseen rfl rfl
  · rcases startDecode_cases (s.beginCommand w) with ⟨e, hstart⟩ | ⟨d, hstart⟩ <;> rw [hstart]
    · exact drawsInRange_of_idle rfl
    · exact drawsInRange_of_unseen rfl rfl

/-- The host's register write keeps the draws in range. -/
theorem DrawsInRange.hostWrite {t : State} {addr : Word} {width : AccessWidth} {v : Word}
    (hstep : Machine.hostWrite addr width v s = .next t) : DrawsInRange t := by
  unfold Machine.hostWrite at hstep
  split at hstep
  · cases hstep
  · split at hstep
    · cases hstep
      exact h
    · split at hstep
      · cases (commandWrite_eq_writeCmd v s).symm.trans hstep
        exact h.writeCmd hinv v
      · cases hstep
        exact h.setRegister _ v

/-- The host's write of a byte of memory keeps the draws in range: while a command runs it is outside both regions, whose
bytes are all that the counters depend on (R139). -/
theorem DrawsInRange.hostMemWrite {t : State} {addr : Word} {v : Byte}
    (hstep : Machine.hostMemWrite addr v s = .next t) : DrawsInRange t := by
  by_cases hrace : s.busy = true ∧ (s.inInput addr = true ∨ s.inOutput addr = true)
  · cases (hostMemWrite_refused hrace).symm.trans hstep
  · cases (hostMemWrite_allowed hrace).symm.trans hstep
    refine h.of_sameCounts id rfl rfl fun hp => ?_
    have hbusy : s.busy = true := congrArg (·.getLsbD 0) (hinv.status.running hp).1
    have hsame {base len : Word} (hout : ¬inRegion base len addr = true) :
        SameBytes s.mem base.toNat (Memory.write s.mem addr.toNat v) base.toNat len.toNat := by
      intro i hi
      rw [inRegion_iff] at hout
      exact (Memory.read_write_other (by omega)).symm
    exact hinv.finalCounts_withMem (hsame fun hin => hrace ⟨hbusy, .inl hin⟩) hp (Memory.write_wf addr.isLt hinv.memory)
      (hsame fun hin => hrace ⟨hbusy, .inr hin⟩)

/-- One operation of the host keeps the draws in range. -/
theorem DrawsInRange.hostMove {t : State} {op : HostOp} (hstep : Machine.hostMove op s = .next t) : DrawsInRange t := by
  cases op with
  | write addr width v => exact h.hostWrite hinv hstep
  | read addr width => exact h.hostRead hstep
  | memWrite addr v => exact h.hostMemWrite hinv hstep
  | memRead addr => exact h.hostMemRead hstep
  | poll =>
    cases hstep
    exact h.deliver s.status
  | pass => exact h.engineStep hinv hstep
  | reset =>
    cases hstep
    exact drawsInRange_of_idle rfl

end

/-- Settles O45: the host's operations and the engine's steps leave the counters at the command's end alone, and a draw does
not pass them. -/
theorem counterReadsStayInRange : Obligations.CounterReadsStayInRange := by
  intro s t hinv h hstep
  cases hhost : s.host with
  | nil => exact h.engineStep hinv ((step_of_quiet hhost).symm.trans hstep)
  | cons op rest =>
    by_cases hwait : op = .poll ∧ s.busy = true
    · obtain ⟨rfl, hb⟩ := hwait
      have hinv' : Inv (s.deliver s.status) := hinv.mapHostSide fun x => { x with readData := s.status }
      exact (h.deliver s.status).engineStep hinv' ((step_of_waiting_poll hhost hb).symm.trans hstep)
    · have hgo : op = .poll → s.busy = false := fun hop => Bool.eq_false_iff.2 fun hb => hwait ⟨hop, hb⟩
      have htaken : DrawsInRange { s with host := rest } := h.mapHostSide (fun x => { x with host := rest }) rfl rfl
      have hinv' : Inv { s with host := rest } := hinv.mapHostSide fun x => { x with host := rest }
      exact htaken.hostMove hinv' ((step_of_host hhost hgo).symm.trans hstep)

end Sys2Proof.Machine

/-! ## Register reads while a command runs, and the reset (R135 to R142) -/

namespace Sys2Proof.Machine

/-! ### Register reads while BUSY = 1 (R142) -/

section
variable {s : State} {rest : List HostOp}

/-- An aligned read of a register other than the counters hands over the register, busy or not (R8, R142). -/
theorem step_of_opRD_register {off : BitVec 8} (hhost : s.host = opRD s.params off :: rest)
    (hal : off.toNat % 4 = 0) (hlit : off ≠ 0x20) (hmat : off ≠ 0x24) :
    step s = .next { s with host := rest, readData := s.register off } := by
  have haligned : alignedWord .word off = true := (alignedWord_iff _ _).2 ⟨rfl, hal⟩
  rw [step_of_opRD hhost, State.readRegister, haligned, if_neg nofun, if_neg fun h => hlit h.2, if_neg fun h => hmat h.2]
  rfl

/-- A read of LIT_COUNT while BUSY = 1 is a draw (R142). -/
theorem step_of_opRD_litCount (hhost : s.host = opRD s.params 0x20 :: rest) (hb : s.busy = true) :
    step s = .next (({ s with host := rest } : State).drawLitCount) := by
  rw [step_of_opRD hhost, State.readRegister, if_neg (by decide), if_pos ⟨hb, rfl⟩]

/-- A read of MATCH_COUNT while BUSY = 1 is a draw (R142). -/
theorem step_of_opRD_matchCount (hhost : s.host = opRD s.params 0x24 :: rest) (hb : s.busy = true) :
    step s = .next (({ s with host := rest } : State).drawMatchCount) := by
  have hlit : (0x24 : BitVec 8) ≠ 0x20 := by decide
  rw [step_of_opRD hhost, State.readRegister, if_neg (by decide), if_neg fun h => hlit h.2, if_pos ⟨hb, rfl⟩]

end

/-- The reserved offsets read 0, as CMD does (R8, R9). -/
theorem State.register_of_reserved (s : State) {off : BitVec 8} (h : off.toNat = 0 ∨ 0x2C ≤ off.toNat) :
    s.register off = 0 := by
  unfold State.register
  split
  case h_11 => rfl
  all_goals omega

/-- Settles O44: the counters are draws up to the counters at the command's end, which the host's script has no bearing on;
the other registers are handed over. -/
theorem readsWhileBusy : Obligations.ReadsWhileBusy := by
  intro s off rest hb ⟨hstatus, herr, hout⟩ hhost
  have hcounts : ({ s with host := rest } : State).finalCounts = s.finalCounts :=
    State.finalCounts_mapHostSide (fun x => { x with host := rest }) s
  obtain ⟨hlitEnd, hmatEnd⟩ := Prod.mk.inj hcounts
  have hread := step_of_opRD_register hhost
  refine ⟨?lit, ?mat, ?status, ?zero, ?srcAddr, ?srcLen, ?dstAddr, ?dstCap, ?id, ?reserved⟩
  case lit =>
    rintro rfl
    exact ⟨_, step_of_opRD_litCount hhost hb, hlitEnd ▸ counterDraw_bounds _ _ _⟩
  case mat =>
    rintro rfl
    exact ⟨_, step_of_opRD_matchCount hhost hb, hmatEnd ▸ counterDraw_bounds _ _ _⟩
  case status =>
    rintro rfl
    rw [hread (by decide) (by decide) (by decide), ← show s.status = 1 from hstatus]
    rfl
  case zero =>
    rintro (rfl | rfl)
    · rw [hread (by decide) (by decide) (by decide), ← hout]
      rfl
    · rw [hread (by decide) (by decide) (by decide), ← herr]
      rfl
  case reserved =>
    intro hoff
    have hreserved : off.toNat = 0 ∨ 0x2C ≤ off.toNat := hoff.imp (congrArg BitVec.toNat) And.left
    have hal : off.toNat % 4 = 0 := hoff.elim (fun h => h ▸ rfl) And.right
    rw [hread hal, s.register_of_reserved hreserved]
    · rintro rfl
      simp at hreserved
    · rintro rfl
      simp at hreserved
  all_goals
    rintro rfl
    exact hread (by decide) (by decide) (by decide)

/-! ### Reset (R135 to R137) -/

/-- Free values leave every address outside them alone (R136). -/
theorem Memory.read_writeFree_outside : ∀ (count : Nat) {m : List Host.Cell} {base k x : Nat},
    (x < base ∨ base + count ≤ x) → Memory.read (Memory.writeFree m base k count) x = Memory.read m x
  | 0, _, _, _, _, _ => rfl
  | count + 1, m, base, k, x, h => by
    rw [Memory.writeFree, Memory.read_writeFree_outside count (by omega), Memory.read_write_other (by omega)]

/-- Reading back free values written inside the address space, drawn in address order (R136). -/
theorem Memory.read_writeFree_inside : ∀ (count : Nat) {m : List Host.Cell} {base k i : Nat},
    base + count ≤ Config.addressSpace → Memory.wf m = true → i < count →
    Memory.read (Memory.writeFree m base k count) (base + i) = Config.freeByte (k + i)
  | count + 1, m, base, k, 0, h, hm, _ => by
    rw [Memory.writeFree, Memory.read_writeFree_outside count (by omega)]
    exact Memory.read_write_same hm
  | count + 1, m, base, k, i + 1, h, hm, hi => by
    rw [Memory.writeFree, show base + (i + 1) = base + 1 + i by omega, show k + (i + 1) = k + 1 + i by omega]
    exact Memory.read_writeFree_inside count (by omega) (Memory.write_wf (by omega) hm) (by omega)

/-- A reset leaves the parameters and the host's script alone, and memory too where no command runs (R135, R136). -/
theorem State.resetMemory_frame (s : State) :
    s.resetMemory.params = s.params ∧ s.resetMemory.host = s.host ∧ (s.busy = false → s.resetMemory.mem = s.mem) := by
  unfold State.resetMemory
  split
  · rename_i hb
    exact ⟨rfl, rfl, fun hidle => absurd (hb.symm.trans hidle) nofun⟩
  · exact ⟨rfl, rfl, fun _ => rfl⟩

/-- A reset leaves memory outside the latched output region alone (R136). -/
theorem State.read_resetMemory_outside (s : State) {x : Nat}
    (hx : x < s.latDstAddr.toNat ∨ s.latDstAddr.toNat + s.latDstCap.toNat ≤ x) :
    Memory.read s.resetMemory.mem x = Memory.read s.mem x := by
  unfold State.resetMemory
  split
  · refine Memory.read_writeFree_outside _ ?_
    have hcap : s.outputBytes ≤ s.latDstCap.toNat := Nat.min_le_left _ _
    omega
  · rfl

/-- A reset leaves a free value in each byte of the output region of a running command (R136). -/
theorem State.read_resetMemory_inside {s : State} (hb : s.busy = true) (hm : Memory.wf s.mem = true) {i : Nat}
    (hi : i < s.latDstCap.toNat) (hspace : s.latDstAddr.toNat + i < Config.addressSpace) :
    Memory.read s.resetMemory.mem (s.latDstAddr.toNat + i) = Config.freeByte (s.fresh + i) := by
  have hbytes : s.outputBytes ≤ Config.addressSpace - s.latDstAddr.toNat := Nat.min_le_right _ _
  have hdrawn : i < s.outputBytes := Nat.lt_min.2 ⟨hi, by omega⟩
  rw [State.resetMemory, if_pos hb]
  exact Memory.read_writeFree_inside _ (by omega) hm hdrawn

/-- Settles O49: the block is as after reset, and only the output region of a running command takes free values. -/
theorem resetDuringACommand : Obligations.ResetDuringACommand := by
  intro s rest hhost
  obtain ⟨hparams, hscript, hmem⟩ := State.resetMemory_frame { s with host := rest }
  exact ⟨_, step_of_host hhost nofun, rfl, rfl, rfl, rfl, rfl, rfl, rfl, rfl, rfl, rfl, ⟨rfl, rfl, rfl⟩, hparams, hscript,
    hmem, fun x hx => State.read_resetMemory_outside { s with host := rest } hx,
    fun hb hm i hi hspace => State.read_resetMemory_inside (s := { s with host := rest }) hb hm hi hspace⟩

/-- Settles O48: the fields of the state after reset. -/
theorem resetValues : Obligations.ResetValues :=
  ⟨rfl, rfl, rfl, rfl, rfl, rfl, rfl, rfl, rfl, rfl, rfl, rfl, rfl, rfl, rfl, rfl, rfl, rfl, rfl, rfl⟩

/-- Settles O53: after reset the machine is idle, with its buffers and its memory empty. -/
theorem invariantAtReset : Obligations.InvariantAtReset :=
  inv_of_idle rfl reset_memory_wf rfl (.inl ⟨rfl, rfl, rfl⟩) ⟨rfl, rfl, rfl⟩ finderInv_reset

end Sys2Proof.Machine
